-- ==== Sys2Proof/Word.lean ====
section
/-! DEFINITION. The engine's words: 32-bit bus words and their bytes (spec 00_scope R8, 20_memory R61). -/

namespace Sys2Proof

/-- A register or a buffer entry: one 32-bit bus word (R8, "register width"). -/
abbrev Word := BitVec 32

/-- One byte lane of the bus (R61). -/
abbrev Byte := BitVec 8

end Sys2Proof
end

