-- ==== Sys2Proof/Config.lean ====
section
/-! DEFINITION. What an implementation fixes (00_scope R8, R9) and the free values (93_implementation_defined U2, U3, U8, U9). -/

namespace Sys2Proof

/-- The parameters the spec leaves to the implementation or the platform, as plain data: a machine keeps
them for good (log 10).  `primTable` lists `PRIM_TABLE(m)` for m = 2, 3, ..., 16 (R8, D14); `base` is
`GFRS_BASE` (R60) and `irqLine` is `GFRS_IRQ_LINE` (R260). -/
structure Params where
  primTable : List Nat
  base      : Nat
  irqLine   : Nat
  deriving DecidableEq, Repr

/-- The default `PRIM_TABLE` of R9, for m = 2 to 16. -/
def Params.defaultPrimTable : List Nat :=
  [0x7, 0xB, 0x13, 0x25, 0x43, 0x89, 0x11D, 0x211, 0x409, 0x805, 0x1053, 0x201B, 0x4443, 0x8003, 0x1100B]

/-- The parameters State.reset holds.  The table is R9's default; base 0 and line 0 are
DESIGN CHOICE (log 10). -/
def Params.default : Params :=
  { primTable := Params.defaultPrimTable, base := 0, irqLine := 0 }

/-- A draw: what a read returns where the spec leaves the value open (U2, U3, U9).  Applied to the
counter `State.free`, which every draw advances (log 6), the same for every engine of a platform (log 17). -/
opaque Config.freeWord : Nat → Word

/-- How many host moves precede the engine's step after a command's issue (R290: any finite number).
Applied to the counter `State.free` (log 5), the same for every engine of a platform (log 17). -/
opaque Config.engineDelay : Nat → Nat

end Sys2Proof
end

