-- ==== Sys2Proof/Syntax.lean ====
section
/-! DEFINITION. The command set (30_encoding R92), the names of registers and buffers (10_state R34, R36),
and the host-script notation (30_encoding R97, R98). -/

namespace Sys2Proof

/-- The twenty commands of R92.  A command has no operand field (R90): its operands are implicit (R91). -/
inductive Instr where
  | nop
  | configure
  | gfMul
  | gfDiv
  | gfExp
  | gfLog
  | polyScale
  | polyAdd
  | polyMul
  | polyEval
  | genPoly
  | encode
  | load
  | syndrome
  | forneySyn
  | bm
  | chien
  | correct
  | verify
  | decode
  deriving DecidableEq, Repr

/-- The 27 registers of the register map (R34). -/
inductive Reg where
  | id | ctrl | status | cmd | cfgN | cfgK
  | actN | actK | q | m | nsym | prim
  | opA | opB | result
  | lenIn | lenOut | lenWork | lenSyn | lenFsyn | lenLoc | numEra | numErrpos | lenGen | lenA | lenB | lenR
  deriving DecidableEq, Repr

/-- The twelve buffers (R36). -/
inductive Buf where
  | inp | out | work | syn | fsyn | loc | era | errpos | gen | pa | pb | pr
  deriving DecidableEq, Repr

/-- What the host does with the value a read returns: `RD` discards it or keeps it in a named host variable
(R97), an `EXPECT` line claims what it is (R98, R288). -/
inductive ReadUse where
  | discard
  | bind   (name : String)
  | expect (v : Word)
  deriving DecidableEq, Repr

/-- What the outside world does to the engine, one move at a time.  Addresses are byte offsets from
`GFRS_BASE` (R62, R97).
* `write`, `read`: one bus access of `size` bytes (R62; a size other than 4 is a bus error, R63).
* `poll`: the `POLL` form of R97, one read a move until the masked value matches.
* `waitIrq`: the other form of R287's wait, for the IRQ output to be 1; no bus access (log 22).
* `rst`: the platform drives the RST input to a level (R281). -/
inductive HostOp where
  | write (addr size : Nat) (v : Word)
  | read  (addr size : Nat) (use : ReadUse)
  | poll  (addr : Nat) (mask val : Word)
  | waitIrq
  | rst   (asserted : Bool)
  deriving DecidableEq, Repr

/-- The lines of a host script: the four forms of R97 and the pseudo-instructions of R98. -/
inductive Pseudo where
  | wr       (off : Nat) (v : Word)
  | rd       (off : Nat)
  | rdTo     (off : Nat) (name : String)
  | poll     (off : Nat) (mask val : Word)
  | cmd      (i : Instr)
  | wait
  | run      (i : Instr)
  | ack
  | sym      (b : Buf) (i : Nat) (v : Word)
  | erase    (i : Nat)
  | loadSyms (b : Buf) (vs : List Word)
  | expect   (off : Nat) (v : Word)
  deriving DecidableEq, Repr

end Sys2Proof
end

