-- ==== Sys2Proof/Machine/AddressMap.lean ====
section
/-! DEFINITION. The register map (10_state R34), the buffer map (10_state R36, 20_memory R60), entry formats
(10_state R37 to R39) and bus errors (20_memory R63). -/

namespace Sys2Proof

/-- Byte offset of a register (R34). -/
def Reg.offset : Reg → Nat
  | .id => 0x000 | .ctrl => 0x004 | .status => 0x008 | .cmd => 0x00C
  | .cfgN => 0x010 | .cfgK => 0x014
  | .actN => 0x018 | .actK => 0x01C | .q => 0x020 | .m => 0x024 | .nsym => 0x028 | .prim => 0x02C
  | .opA => 0x030 | .opB => 0x034 | .result => 0x038
  | .lenIn => 0x03C | .lenOut => 0x040 | .lenWork => 0x044 | .lenSyn => 0x048 | .lenFsyn => 0x04C
  | .lenLoc => 0x050 | .numEra => 0x054 | .numErrpos => 0x058 | .lenGen => 0x05C
  | .lenA => 0x060 | .lenB => 0x064 | .lenR => 0x068

/-- The register at a byte offset of the register window (R34); none where the window is unmapped. -/
def Reg.atOffset? (a : Nat) : Option Reg :=
  match a with
  | 0x000 => some .id | 0x004 => some .ctrl | 0x008 => some .status | 0x00C => some .cmd
  | 0x010 => some .cfgN | 0x014 => some .cfgK
  | 0x018 => some .actN | 0x01C => some .actK | 0x020 => some .q | 0x024 => some .m
  | 0x028 => some .nsym | 0x02C => some .prim
  | 0x030 => some .opA | 0x034 => some .opB | 0x038 => some .result
  | 0x03C => some .lenIn | 0x040 => some .lenOut | 0x044 => some .lenWork | 0x048 => some .lenSyn
  | 0x04C => some .lenFsyn | 0x050 => some .lenLoc | 0x054 => some .numEra | 0x058 => some .numErrpos
  | 0x05C => some .lenGen | 0x060 => some .lenA | 0x064 => some .lenB | 0x068 => some .lenR
  | _ => none

/-- Base byte address of a buffer (R36). -/
def Buf.base : Buf → Nat
  | .inp => 0x040000 | .out => 0x080000 | .work => 0x0C0000 | .syn => 0x100000 | .fsyn => 0x140000
  | .loc => 0x180000 | .era => 0x1C0000 | .errpos => 0x200000 | .gen => 0x240000
  | .pa => 0x280000 | .pb => 0x2C0000 | .pr => 0x300000

/-- Number of entries of a buffer (R8: DEPTH and DEPTH_R). -/
def Buf.depth : Buf → Nat
  | .pr => 131072
  | _ => 65536

/-- The twelve buffers in address order (R60). -/
def Buf.all : List Buf :=
  [.inp, .out, .work, .syn, .fsyn, .loc, .era, .errpos, .gen, .pa, .pb, .pr]

/-- The defined bits of an entry: ERASED and SYM in IN (R37), the low 16 bits elsewhere (R38, R39). -/
def Buf.mask : Buf → Word
  | .inp => 0x8000FFFF
  | _ => 0x0000FFFF

/-- What a legal access addresses. -/
inductive Target where
  | reg   (r : Reg)
  | entry (b : Buf) (i : Nat)
  deriving DecidableEq, Repr

/-- The buffer entry at an aligned byte address: entry i of a buffer is at base + 4*i (R36). -/
def Buf.entryAt? (a : Nat) : Option Target :=
  (Buf.all.find? fun b => b.base ≤ a && a < b.base + 4 * b.depth).map
    fun b => .entry b ((a - b.base) / 4)

/-- What an access of `size` bytes at offset `addr` addresses; none exactly where it is a bus error (R63). -/
def locate (addr size : Nat) : Option Target :=
  if size ≠ 4 ∨ addr % 4 ≠ 0 then none
  else if addr < 0x040000 then (Reg.atOffset? addr).map .reg
  else Buf.entryAt? addr

end Sys2Proof
end

