-- ==== Sys2Proof/WellFormed.lean ====
section
/-! DEFINITION. Well-formed commands, parameters and host-script lines. -/

namespace Sys2Proof

/-- A command word has no register, immediate or mode field (30_encoding R90), so every command is
well formed; the match names each one so that a new command cannot slip past. -/
def Instr.wellFormed : Instr → Bool
  | .nop | .configure | .gfMul | .gfDiv | .gfExp | .gfLog
  | .polyScale | .polyAdd | .polyMul | .polyEval
  | .genPoly | .encode | .load | .syndrome | .forneySyn | .bm | .chien
  | .correct | .verify | .decode => true

/-- A table of primitive-polynomial constants has one entry for each m = 2 to 16, and entry m is a
polynomial of degree m: its bit m is set and no bit above it (00_scope R8, R9). -/
def Params.wellFormed (p : Params) : Bool :=
  p.primTable.length == 15 &&
  p.primTable.zipIdx.all fun (c, i) => 2 ^ (i + 2) ≤ c && c < 2 ^ (i + 3)

/-- A host move the spec's host table allows (70 R287): a bus access breaks none of the rules of
20_memory R63. -/
def HostOp.wellFormed : HostOp → Bool
  | .write a size _ => (locate a size).isSome
  | .read a size _ => (locate a size).isSome
  | .poll a _ _ => (locate a 4).isSome
  | .waitIrq | .rst _ => true

/-- A script line names existing registers and entries only (30_encoding R97, R98). -/
def Pseudo.wellFormed : Pseudo → Bool
  | .wr off _ | .rd off | .rdTo off _ | .poll off _ _ | .expect off _ => (locate off 4).isSome
  | .cmd i | .run i => i.wellFormed
  | .wait | .ack => true
  | .sym b i _ => i < b.depth
  | .erase i => i < Buf.inp.depth
  | .loadSyms b vs => vs.length ≤ b.depth

end Sys2Proof
end

