-- ==== Sys2Proof/Decode.lean ====
section
/-! DEFINITION. Decoding and encoding of command words (30_encoding R90, R92, R93). -/

namespace Sys2Proof

/-- Why a word is no command (R93, R94), or why bytes hold no word. -/
inductive DecodeError where
  /-- RSVD, bits 31:8, is not 0. -/
  | reservedBits
  /-- OPCODE is not in the opcode map. -/
  | unknownOpcode
  /-- Fewer than the four bytes of a command word. -/
  | tooShort
  deriving DecidableEq, Repr

/-- OPCODE, bits 7:0 of a command word (R90). -/
def opcodeField (w : Word) : BitVec 8 := w.extractLsb' 0 8

/-- RSVD, bits 31:8 of a command word (R90). -/
def rsvdField (w : Word) : BitVec 24 := w.extractLsb' 8 24

/-- The opcode map of R92, read from opcode to command. -/
def Instr.ofOpcode? (op : BitVec 8) : Option Instr :=
  match op.toNat with
  | 0x00 => some .nop
  | 0x01 => some .configure
  | 0x10 => some .gfMul
  | 0x11 => some .gfDiv
  | 0x12 => some .gfExp
  | 0x13 => some .gfLog
  | 0x20 => some .polyScale
  | 0x21 => some .polyAdd
  | 0x22 => some .polyMul
  | 0x23 => some .polyEval
  | 0x30 => some .genPoly
  | 0x31 => some .encode
  | 0x40 => some .load
  | 0x41 => some .syndrome
  | 0x42 => some .forneySyn
  | 0x43 => some .bm
  | 0x44 => some .chien
  | 0x45 => some .correct
  | 0x46 => some .verify
  | 0x4F => some .decode
  | _ => none

/-- Decode a command word: RSVD must be 0 and OPCODE in the map (R93). -/
def decodeWord (w : Word) : Except DecodeError Instr :=
  if rsvdField w ≠ 0 then .error .reservedBits
  else
    match Instr.ofOpcode? (opcodeField w) with
    | some i => .ok i
    | none => .error .unknownOpcode

/-- The word whose byte lanes are given, lowest address first (20_memory R61, little-endian). -/
def wordOfBytes (b0 b1 b2 b3 : Byte) : Word := b3 ++ b2 ++ b1 ++ b0

/-- Byte lane j of a word (R61): bits 8j+7 to 8j. -/
def byteLane (w : Word) (j : Nat) : Byte := w.extractLsb' (8 * j) 8

/-- Decode the command word at the front of a byte stream, and the rest of the stream.  Total on any bytes. -/
def decodeBytes : List Byte → Except DecodeError (Instr × List Byte)
  | b0 :: b1 :: b2 :: b3 :: rest =>
    match decodeWord (wordOfBytes b0 b1 b2 b3) with
    | .ok i => .ok (i, rest)
    | .error e => .error e
  | _ => .error .tooShort

/-- OPCODE of a command (R92). -/
def Instr.opcode : Instr → BitVec 8
  | .nop => 0x00
  | .configure => 0x01
  | .gfMul => 0x10
  | .gfDiv => 0x11
  | .gfExp => 0x12
  | .gfLog => 0x13
  | .polyScale => 0x20
  | .polyAdd => 0x21
  | .polyMul => 0x22
  | .polyEval => 0x23
  | .genPoly => 0x30
  | .encode => 0x31
  | .load => 0x40
  | .syndrome => 0x41
  | .forneySyn => 0x42
  | .bm => 0x43
  | .chien => 0x44
  | .correct => 0x45
  | .verify => 0x46
  | .decode => 0x4F

/-- The command word: RSVD = 0 above OPCODE (R90, R92). -/
def encode (i : Instr) : Word := (0 : BitVec 24) ++ i.opcode

/-- The command word as the bus lays it out, lowest address first (R61). -/
def encodeBytes (i : Instr) : List Byte := (List.range 4).map (byteLane (encode i))

/-- The command word of a table row: the row's `nbits` low bits are `w`, every bit above them 0.  A row
longer than the one command word there is (R90: every command has exactly 32 bits) has no word. -/
def tableWord? (nbits w : Nat) : Option Word :=
  if nbits ≤ 32 then some (BitVec.ofNat 32 (w % 2 ^ nbits)) else none

/-- The command this decoder reads from a table row's bits, laid out as the bus does (R61). -/
def decodeTableWord (nbits w : Nat) : Option Instr :=
  match tableWord? nbits w with
  | none => none
  | some v =>
    match decodeBytes ((List.range 4).map (byteLane v)) with
    | .ok (i, _) => some i
    | .error _ => none

end Sys2Proof
end

