-- ==== Sys2Proof/Machine/State.lean ====
section
/-! DEFINITION. The engine's state as plain data (10_state), the reasons a step stops (00_scope R16), and reset
(70_reset_and_hazards R280). -/

namespace Sys2Proof.Machine

/-- The twelve status codes of R250 (60_exceptions), the values of STATUS.CODE.  Codes 0x0C to 0xFF are
never produced, so no constructor stands for them. -/
inductive StatusCode where
  | ok
  | configurationError
  | divisionByZero
  | inputTooLong
  | tooManyErasures
  | tooManyErrors
  | errorLocationFailure
  | correctionVerificationFailure
  | notConfigured
  | operandRange
  | invalidSymbol
  | illegalCommand
  deriving DecidableEq, Repr

/-- The model faults of R16 (00_scope).  Each errs toward unprovable: safe. -/
inductive Fault where
  /-- Raised by an engine read of buffer entry `i` of `b` that nothing has written since reset
  (R16, R40, U1).  Safe: the hardware reads arbitrary RAM and goes on, the model stops. -/
  | unwrittenRead (b : Buf) (i : Nat)
  /-- Raised by a host access at offset `addr` that breaks the bus rules (R16, R63, U4).  Safe: the bus
  reports an error and the engine's state does not change, the model stops. -/
  | hostBusError (addr : Nat)
  deriving DecidableEq, Repr

/-- Reasons an instruction has no meaning. -/
inductive Refusal where
  /-- Raised by exec's arm of an instruction that has no meaning yet.  Safe: the model stops.  No arm
  raises it now. -/
  | notModelled (mnemonic : String)
  deriving DecidableEq, Repr

/-- The latched configuration `cfg` (R30): naturals, since CONFIGURE computes them on unbounded
naturals (R112).  Every field is 0 while CONFIGURED = 0. -/
structure Cfg where
  n    : Nat
  k    : Nat
  q    : Nat
  m    : Nat
  nsym : Nat
  prim : Nat
  deriving DecidableEq, Repr

/-- The configuration while CONFIGURED = 0 (R30). -/
def Cfg.zero : Cfg := { n := 0, k := 0, q := 0, m := 0, nsym := 0, prim := 0 }

/-- Buffer memory: the bytes written since reset, by byte offset from `GFRS_BASE` (R36, R60), addresses
strictly rising.  An unlisted byte belongs to an unwritten entry (R40) and has no value (log 7). -/
abbrev Memory := List Host.Cell

/-- What one host read returned, and what the host does with it (R97, R98, R288). -/
structure HostRead where
  addr  : Nat
  value : Word
  use   : ReadUse
  deriving DecidableEq, Repr

/-- The engine and its surroundings.  The comment of a field names its register or rule; the last five
fields are the RST input and the model's own record of the host (log 4, 5, 6, 9, 14). -/
structure State where
  /-- PRIM_TABLE, GFRS_BASE, GFRS_IRQ_LINE (R8, R60, R260): no step changes them. -/
  params     : Params
  /-- STATUS.BUSY and the sequencer state (R20, R23). -/
  busy       : Bool
  /-- STATUS.DONE (R23). -/
  done       : Bool
  /-- STATUS.CONFIGURED, the valid bit of `cfg` (R23, R30). -/
  configured : Bool
  /-- STATUS.OVR (R23). -/
  ovr        : Bool
  /-- STATUS.CODE (R23, R250). -/
  code       : StatusCode
  /-- CTRL.IE (R22). -/
  ie         : Bool
  /-- PENDING, the latched command word (R42). -/
  pending    : Word
  /-- CFG_N, CFG_K (R26). -/
  cfgN       : Word
  cfgK       : Word
  /-- The latched configuration (R30), read through ACT_N to PRIM (R27). -/
  cfg        : Cfg
  /-- EXP (R31). -/
  exp        : List Nat
  /-- LOG (R32). -/
  log        : List Nat
  /-- OPA, OPB (R28). -/
  opA        : Word
  opB        : Word
  /-- RESULT (R29). -/
  result     : Word
  /-- The length and count registers (R33). -/
  lenIn      : Word
  lenOut     : Word
  lenWork    : Word
  lenSyn     : Word
  lenFsyn    : Word
  lenLoc     : Word
  numEra     : Word
  numErrpos  : Word
  lenGen     : Word
  lenA       : Word
  lenB       : Word
  lenR       : Word
  /-- The buffers (R36 to R40). -/
  mem        : Memory
  /-- The level of the RST input (R281). -/
  rst        : Bool
  /-- What the host and the platform still have to do, next first (R97). -/
  host       : List HostOp
  /-- What the host's reads returned, newest first. -/
  reads      : List HostRead
  /-- Host moves that still precede the engine's step (R290). -/
  wait       : Nat
  /-- The counter the free values are applied to. -/
  free       : Nat
  deriving DecidableEq, Repr

/-- The state after reset (R280).  PENDING, EXP and LOG, which the spec gives no value, are 0 and empty
(log 1, 2); every buffer entry is unwritten; RST is released (R281). -/
def State.reset : State where
  params := Params.default
  busy := false
  done := false
  configured := false
  ovr := false
  code := .ok
  ie := false
  pending := 0
  cfgN := 0
  cfgK := 0
  cfg := Cfg.zero
  exp := []
  log := []
  opA := 0
  opB := 0
  result := 0
  lenIn := 0
  lenOut := 0
  lenWork := 0
  lenSyn := 0
  lenFsyn := 0
  lenLoc := 0
  numEra := 0
  numErrpos := 0
  lenGen := 0
  lenA := 0
  lenB := 0
  lenR := 0
  mem := []
  rst := false
  host := []
  reads := []
  wait := 0
  free := 0

/-- The result of a command step. -/
abbrev Result := Host.Outcome State Fault Refusal

end Sys2Proof.Machine
end

