-- ==== Sys2Proof/Machine/Ops.lean ====
section
/-! DEFINITION. The shared operations: buffer memory (10_state R36 to R40, 20_memory R61), command completion
(10_state R24, 60_exceptions R253) and issue (10_state R25), and the shape every command has
(00_scope R14, R15). -/

namespace Sys2Proof.Machine

/-! ### Buffer memory, byte by byte -/

/-- The byte at an address; none where nothing has been written since reset (R40). -/
def Memory.read? : Memory → Nat → Option Byte
  | [], _ => none
  | (k, v) :: m, a => if k = a then some v else Memory.read? m a

/-- Write one byte, keeping addresses strictly rising. -/
def Memory.write (m : Memory) (a : Nat) (v : Byte) : Memory :=
  match m with
  | [] => [(a, v)]
  | (k, x) :: rest =>
    if a < k then (a, v) :: (k, x) :: rest
    else if a = k then (a, v) :: rest
    else (k, x) :: Memory.write rest a v

/-- The canonical form: addresses strictly rising.  An unlisted byte has no value, so no listed byte can
equal what an unlisted one reads as. -/
def Memory.wf : Memory → Bool
  | [] => true
  | [_] => true
  | (a, _) :: (b, y) :: rest => a < b && Memory.wf ((b, y) :: rest)

/-- The word whose byte lanes stand at `a` to `a + 3` (R61); none unless all four are written. -/
def Memory.readWord? (m : Memory) (a : Nat) : Option Word :=
  match m.read? a, m.read? (a + 1), m.read? (a + 2), m.read? (a + 3) with
  | some b0, some b1, some b2, some b3 => some (wordOfBytes b0 b1 b2 b3)
  | _, _, _, _ => none

/-- Write the four byte lanes of a word at `a` to `a + 3` (R61). -/
def Memory.writeWord (m : Memory) (a : Nat) (w : Word) : Memory :=
  (((m.write a (byteLane w 0)).write (a + 1) (byteLane w 1)).write (a + 2) (byteLane w 2)).write
    (a + 3) (byteLane w 3)

/-! ### Buffer memory, entry by entry -/

/-- Byte address of entry `i` of a buffer: base + 4*i (R36).  For i at or above the buffer's depth, where no entry
exists, it is an address past the buffer, a DESIGN CHOICE no command or host access reaches (log 25). -/
def entryAddr (b : Buf) (i : Nat) : Nat := b.base + 4 * i

/-- Entry `i` of a buffer; none while its written flag is clear (R40). -/
def Memory.entry? (m : Memory) (b : Buf) (i : Nat) : Option Word := m.readWord? (entryAddr b i)

/-- Store the defined bits of `w` in entry `i` of a buffer and set its written flag (R37 to R40). -/
def Memory.setEntry (m : Memory) (b : Buf) (i : Nat) (w : Word) : Memory :=
  m.writeWord (entryAddr b i) (w &&& b.mask)

/-- The entry an engine write of symbol or position `v` stores: `v` in bits 15:0 (R38, R39). -/
def symWord (v : Nat) : Word := (BitVec.ofNat 16 v).setWidth 32

/-- Engine writes of `vs` to entries `i`, `i + 1`, ... of a buffer. -/
def Memory.storeFrom (m : Memory) (b : Buf) (i : Nat) : List Nat → Memory
  | [] => m
  | v :: vs => Memory.storeFrom (m.setEntry b i (symWord v)) b (i + 1) vs

/-- Engine writes of `vs` to the entries of a buffer from entry 0 on. -/
def Memory.store (m : Memory) (b : Buf) (vs : List Nat) : Memory := m.storeFrom b 0 vs

/-- `zext_32(v)` of R10: a natural below 2^32 in a 32-bit word. -/
def zext32 (n : Nat) : Word := BitVec.ofNat 32 n

/-! ### Completion and issue -/

/-- Completion with a status code (R24, R253): the engine's one report, in place of an exception entry. -/
def State.finish (s : State) (c : StatusCode) : State :=
  { s with code := c, busy := false, done := true }

/-- Acknowledgement of a completion (R254), in place of a return: the host's write of 1 to DONE. -/
def State.clearDone (s : State) : State := { s with done := false }

/-- Latch a command word (R25, the idle case): PENDING, DONE, CODE and BUSY. -/
def State.latch (s : State) (w : Word) : State :=
  { s with pending := w, done := false, code := .ok, busy := true }

/-- A CMD write while IDLE (R25): latch the word; the engine's step follows after a number of host moves
the spec leaves open (R290, log 5).  Two engines of a platform (R261) take it from the same `Config.engineDelay`, each
at its own counter, so equal counters give equal delays: a DESIGN CHOICE (logs 5, 17). -/
def State.issue (s : State) (w : Word) : State :=
  { s.latch w with wait := Config.engineDelay s.free, free := s.free + 1 }

/-! ### The shape of a command -/

/-- Why a command's pseudocode ends early: `raise Fail(c)` (R14) or a model fault (R16). -/
inductive Stop where
  | fail (c : StatusCode)
  | fault (f : Fault)
  deriving DecidableEq, Repr

/-- `if p: raise Fail(c)` (R14). -/
def failIf (p : Prop) [Decidable p] (c : StatusCode) : Except Stop Unit :=
  if p then .error (.fail c) else .ok ()

/-- The dispatch check of R93 for every command but NOP and CONFIGURE (R110). -/
def needConfigured (s : State) : Except Stop Unit := failIf (s.configured = false) .notConfigured

/-- Run a command's pseudocode and complete (R14, R15, R24): its writes are kept on OK only; on a failure
nothing changes but STATUS; a model fault stops the machine (R16). -/
def command (s : State) (body : State → Except Stop State) : Result :=
  match body s with
  | .ok t => .next (t.finish .ok)
  | .error (.fail c) => .next (s.finish c)
  | .error (.fault f) => .fault f

/-- A command that needs the engine configured (R93). -/
def configuredCommand (s : State) (body : State → Except Stop State) : Result :=
  command s fun s => do
    needConfigured s
    body s

/-! ### Loops -/

/-- The loop of `repeatUp`, `k` more rounds from `i`. -/
def repeatUpFrom {α : Type} (body : Nat → α → α) : Nat → Nat → α → α
  | _, 0, x => x
  | i, k + 1, x => repeatUpFrom body (i + 1) k (body i x)

/-- `for i in [lo, hi)` of R11, threading the value the loop changes. -/
def repeatUp {α : Type} (lo hi : Nat) (x : α) (body : Nat → α → α) : α :=
  repeatUpFrom body lo (hi - lo) x

/-- `zeros(L)` of R11. -/
def zeros (L : Nat) : List Nat := List.replicate L 0

/-- `out[k] = out[k] XOR v`. -/
def xorAt (out : List Nat) (k v : Nat) : List Nat := out.modify k fun o => o ^^^ v

/-- `s[a..b)` of R11. -/
def slice (s : List Nat) (a b : Nat) : List Nat := (s.drop a).take (b - a)

/-- Every second element, from the first on. -/
def everySecond : List Nat → List Nat
  | [] => []
  | [a] => [a]
  | a :: _ :: rest => a :: everySecond rest

/-- `stride2(s, a)` of R11. -/
def stride2 (s : List Nat) (a : Nat) : List Nat := everySecond (s.drop a)

end Sys2Proof.Machine
end

