-- ==== Sys2Proof/Machine/Flags.lean ====
section
/-! DEFINITION. The STATUS flags (10_state R22, R23, R44), the status codes' numbers (60_exceptions R250) and the IRQ output
(10_state R43, 60_exceptions R256). -/

namespace Sys2Proof.Machine

/-- The value of a status code in STATUS bits 15:8 (R250). -/
def StatusCode.byte : StatusCode → Byte
  | .ok => 0x00
  | .configurationError => 0x01
  | .divisionByZero => 0x02
  | .inputTooLong => 0x03
  | .tooManyErasures => 0x04
  | .tooManyErrors => 0x05
  | .errorLocationFailure => 0x06
  | .correctionVerificationFailure => 0x07
  | .notConfigured => 0x08
  | .operandRange => 0x09
  | .invalidSymbol => 0x0A
  | .illegalCommand => 0x0B

/-- The IRQ output: DONE AND IE (R43, R256). -/
def State.irq (s : State) : Bool := s.done && s.ie

/-- A flag at bit `k` of a word. -/
def flagAt (b : Bool) (k : Nat) : Word := (BitVec.ofBool b).setWidth 32 <<< k

/-- The word STATUS reads as (R23): reserved bits 7:5 and 31:16 are 0. -/
def State.statusWord (s : State) : Word :=
  flagAt s.busy 0 ||| flagAt s.done 1 ||| flagAt s.configured 2 ||| flagAt s.ovr 3 ||| flagAt s.irq 4 |||
    (s.code.byte.setWidth 32 <<< 8)

/-- The word CTRL reads as (R22): bit 0 is IE, the rest 0. -/
def State.ctrlWord (s : State) : Word := flagAt s.ie 0

/-- A host write to CTRL (R22): bit 0 is stored, the rest ignored. -/
def State.writeCtrl (s : State) (v : Word) : State := { s with ie := v.getLsbD 0 }

/-- A host write to STATUS (R23): a written 1 in bit 1 clears DONE, in bit 3 clears OVR. -/
def State.writeStatus (s : State) (v : Word) : State :=
  let s := if v.getLsbD 1 then s.clearDone else s
  if v.getLsbD 3 then { s with ovr := false } else s

/-- A host write dropped because the engine is busy (R66): sets OVR. -/
def State.dropWrite (s : State) : State := { s with ovr := true }

end Sys2Proof.Machine
end

