-- ==== Sys2Proof/Machine/Bus.lean ====
section
/-! DEFINITION. The host bus: what each register and entry reads as and what a write does (10_state R21 to R40, 20_memory
R62 to R66), and the RST input (70_reset_and_hazards R281). -/

namespace Sys2Proof.Machine

/-- The word a register reads as while IDLE (R21 to R35). -/
def State.readReg (s : State) : Reg → Word
  | .id => 0x52530007
  | .ctrl => s.ctrlWord
  | .status => s.statusWord
  | .cmd => 0
  | .cfgN => s.cfgN
  | .cfgK => s.cfgK
  | .actN => zext32 s.cfg.n
  | .actK => zext32 s.cfg.k
  | .q => zext32 s.cfg.q
  | .m => zext32 s.cfg.m
  | .nsym => zext32 s.cfg.nsym
  | .prim => zext32 s.cfg.prim
  | .opA => s.opA
  | .opB => s.opB
  | .result => s.result
  | .lenIn => s.lenIn
  | .lenOut => s.lenOut
  | .lenWork => s.lenWork
  | .lenSyn => s.lenSyn
  | .lenFsyn => s.lenFsyn
  | .lenLoc => s.lenLoc
  | .numEra => s.numEra
  | .numErrpos => s.numErrpos
  | .lenGen => s.lenGen
  | .lenA => s.lenA
  | .lenB => s.lenB
  | .lenR => s.lenR

/-- What a host write to a register does while IDLE (R21 to R35): RO registers ignore it. -/
def State.writeReg (s : State) (v : Word) : Reg → State
  | .ctrl => s.writeCtrl v
  | .status => s.writeStatus v
  | .cmd => s.issue v
  | .cfgN => { s with cfgN := v }
  | .cfgK => { s with cfgK := v }
  | .opA => { s with opA := v }
  | .opB => { s with opB := v }
  | .lenIn => { s with lenIn := v }
  | .lenWork => { s with lenWork := v }
  | .lenSyn => { s with lenSyn := v }
  | .lenFsyn => { s with lenFsyn := v }
  | .lenLoc => { s with lenLoc := v }
  | .numEra => { s with numEra := v }
  | .numErrpos => { s with numErrpos := v }
  | .lenA => { s with lenA := v }
  | .lenB => { s with lenB := v }
  | .id | .actN | .actK | .q | .m | .nsym | .prim
  | .result | .lenOut | .lenGen | .lenR => s

/-- A draw (U2, U3, U9): the next free word, of which the bits in `mask` are kept.  Two engines of a platform (R261)
draw from the same `Config.freeWord`, each at its own counter, so equal counters give equal words: a DESIGN CHOICE,
the spec does not relate their draws (logs 6, 17). -/
def State.draw (s : State) (mask : Word) : Word × State :=
  (Config.freeWord s.free &&& mask, { s with free := s.free + 1 })

/-- The value a legal host read returns (R62, R66, R281).  Under RST every read is a draw; while BUSY, all
but ID and STATUS; an unwritten entry reads as a draw with its reserved bits 0 (U2). -/
def State.readTarget (s : State) (t : Target) : Word × State :=
  if s.rst then s.draw (BitVec.allOnes 32)
  else if s.busy ∧ t ≠ .reg .id ∧ t ≠ .reg .status then s.draw (BitVec.allOnes 32)
  else
    match t with
    | .reg r => (s.readReg r, s)
    | .entry b i =>
      match s.mem.entry? b i with
      | some w => (w, s)
      | none => s.draw b.mask

/-- What a legal host write does (R62, R66, R281).  Under RST it has no effect; while BUSY every write but
to STATUS is dropped and sets OVR. -/
def State.writeTarget (s : State) (t : Target) (v : Word) : State :=
  if s.rst then s
  else if s.busy ∧ t ≠ .reg .status then s.dropWrite
  else
    match t with
    | .reg r => s.writeReg v r
    | .entry b i => { s with mem := s.mem.setEntry b i v }

/-- `MemRead(addr, size)` (R62): the value and the state after it, or the model fault (R63). -/
def busRead (s : State) (addr size : Nat) : Except Fault (Word × State) :=
  match locate addr size with
  | some t => .ok (s.readTarget t)
  | none => .error (.hostBusError addr)

/-- `MemWrite(addr, size, v)` (R62), or the model fault (R63). -/
def busWrite (s : State) (addr size : Nat) (v : Word) : Except Fault State :=
  match locate addr size with
  | some t => .ok (s.writeTarget t v)
  | none => .error (.hostBusError addr)

/-- The engine's state of R280, with the surroundings kept: the parameters, the host's remaining moves,
what it has read, and the free-value counter. -/
def State.toReset (s : State) : State :=
  { State.reset with params := s.params, host := s.host, reads := s.reads, free := s.free }

/-- The platform drives RST to a level (R281).  Asserting it resets the engine and discards a latched
command; the state stays that of R280 until release (log 9). -/
def State.setRst (s : State) (asserted : Bool) : State :=
  if asserted then { s.toReset with rst := true }
  else if s.rst then s.toReset
  else s

/-- Record what a host read returned (R97, R288). -/
def State.record (s : State) (addr : Nat) (v : Word) (use : ReadUse) : State :=
  { s with reads := { addr := addr, value := v, use := use } :: s.reads }

/-- The host variable a `RD <off> -> <name>` line read into (R97): the latest value bound to the name, none
before the first (log 14). -/
def State.hostVar? (s : State) (name : String) : Option Word :=
  (s.reads.find? fun r => r.use == .bind name).map fun r => r.value

/-- One move of the host or the platform; `s` holds the moves after it.  A `POLL` whose value does not
match stays next (R97), and so does a wait for IRQ while IRQ is 0 (R287). -/
def hostMove (s : State) (op : HostOp) : Result :=
  match op with
  | .write a size v =>
    match busWrite s a size v with
    | .ok t => .next t
    | .error f => .fault f
  | .read a size use =>
    match busRead s a size with
    | .ok (v, t) => .next (t.record a v use)
    | .error f => .fault f
  | .poll a mask val =>
    match busRead s a 4 with
    | .ok (v, t) =>
      let t := t.record a v .discard
      .next (if v &&& mask = val then t else { t with host := op :: t.host })
    | .error f => .fault f
  | .waitIrq => .next (if s.irq then s else { s with host := op :: s.host })
  | .rst asserted => .next (s.setRst asserted)

end Sys2Proof.Machine
end

