-- ==== Sys2Proof/Machine/Operands.lean ====
section
/-! DEFINITION. The operand reads every command uses (40_field_engine R110, R111; 41_polynomial R149). -/

namespace Sys2Proof.Machine

/-- SYM of an entry, or POS of a position entry: bits 15:0 (R37 to R39). -/
def symField (w : Word) : Nat := (w.extractLsb' 0 16).toNat

/-- ERASED of an IN entry: bit 31 (R37). -/
def erasedField (w : Word) : Bool := w.getLsbD 31

/-- An engine read of entry `i` of a buffer (R40): the model fault UnwrittenRead if its written flag is clear. -/
def readEntry (s : State) (b : Buf) (i : Nat) : Except Stop Word :=
  match s.mem.entry? b i with
  | some w => .ok w
  | none => .error (.fault (.unwrittenRead b i))

/-- `scalar_sym` (R111): a whole 32-bit scalar operand as a symbol. -/
def scalarSym (s : State) (r : Word) : Except Stop Nat := do
  failIf (s.cfg.q ≤ r.toNat) .invalidSymbol
  pure r.toNat

/-- `read_sym(B, i)` (R111). -/
def readSym (s : State) (b : Buf) (i : Nat) : Except Stop Nat := do
  let w ← readEntry s b i
  failIf (s.cfg.q ≤ symField w) .invalidSymbol
  pure (symField w)

/-- `read_pos(B, i, limit)` (R111). -/
def readPos (s : State) (limit : Nat) (b : Buf) (i : Nat) : Except Stop Nat := do
  let w ← readEntry s b i
  failIf (limit ≤ symField w) .operandRange
  pure (symField w)

/-- `read_in(i)` (R111): the ERASED tag and the SYM field of an IN entry. -/
def readIn (s : State) (i : Nat) : Except Stop (Bool × Nat) := do
  let w ← readEntry s .inp i
  pure (erasedField w, symField w)

/-- Read the elements `i` to `i + k - 1` in index order, stopping at the first that fails (R252). -/
def readRange {α : Type} (rd : Nat → Except Stop α) : Nat → Nat → Except Stop (List α)
  | _, 0 => pure []
  | i, k + 1 => do
    let v ← rd i
    let vs ← readRange rd (i + 1) k
    pure (v :: vs)

/-- `read_syms(B, L)` (R111). -/
def readSyms (s : State) (b : Buf) (L : Nat) : Except Stop (List Nat) := readRange (readSym s b) 0 L

/-- Positions 0 to `L - 1` of ERA or ERRPOS, each below `limit` (R111). -/
def readPositions (s : State) (limit : Nat) (b : Buf) (L : Nat) : Except Stop (List Nat) :=
  readRange (readPos s limit b) 0 L

/-- SYM fields of entries 0 to `L - 1` with no range check: the engine's copies and tests of its own
buffers (45_correction R230). -/
def readRaw (s : State) (b : Buf) (L : Nat) : Except Stop (List Nat) :=
  readRange (fun i => do let w ← readEntry s b i; pure (symField w)) 0 L

/-- `read_len` (R149): an operand length, 1 to 65536, over the whole register. -/
def readLen (r : Word) : Except Stop Nat := do
  failIf (r.toNat = 0 ∨ 65536 < r.toNat) .operandRange
  pure r.toNat

/-- The codeword length LEN_WORK, at most n (43_decoder_front R183, R185; 44_locator R204; 45_correction R222, R223). -/
def readNmess (s : State) : Except Stop Nat := do
  failIf (s.cfg.n < s.lenWork.toNat) .inputTooLong
  pure s.lenWork.toNat

end Sys2Proof.Machine
end

