-- ==== Sys2Proof/Machine/Field.lean ====
section
/-! DEFINITION. The field engine: table construction (40_field_engine R113), `gf_mul` and `gf_div` (R114, R115), and the
commands NOP, CONFIGURE, GF_MUL, GF_DIV, GF_EXP, GF_LOG (R112, R116 to R120). -/

namespace Sys2Proof.Machine

/-! ### Tables -/

/-- The supported field sizes, `Q_SET` (R8): 2^m for m = 2 to 16. -/
def qSet : List Nat := (List.range 15).map fun i => 2 ^ (i + 2)

/-- `PRIM_TABLE(m)` (R8), for m = 2 to 16.  For other m, which R8 does not define, DESIGN CHOICE (log 10): m = 0
and m = 1 read the entry of m = 2, m above the table reads 0.  CONFIGURE never asks for these.  A table list that is too short reads 0 at what it
lacks, also log 10. -/
def primOf (p : Params) (m : Nat) : Nat := p.primTable.getD (m - 2) 0

/-- One step of the construction (R113): double x, and reduce if the bit of weight q is set. -/
def doubled (q prim x : Nat) : Nat :=
  if (2 * x) &&& q ≠ 0 then (2 * x) ^^^ prim else 2 * x

/-- The values the construction's loop gives, from `x` on: `k` of them (R113).  Under a constant not of degree m,
which R8 rules out, a value may be q or more; it is kept whole, a DESIGN CHOICE (log 24). -/
def powersFrom (q prim : Nat) : Nat → Nat → List Nat
  | 0, _ => []
  | k + 1, x => x :: powersFrom q prim k (doubled q prim x)

/-- EXP of length 2n (R113): n powers of alpha from EXP[0] = 1, then `EXP[i] = EXP[i - n]`. -/
def expTable (n q prim : Nat) : List Nat := powersFrom q prim n 1 ++ powersFrom q prim n 1

/-- `LOG[x] <- i` for the values `xs` met at i, i + 1, ... (R113), but not for x = 0: LOG[0] stays 0, as R32 and the
comment of R113's first loop say, where the loop's own text would write it (log 27).  A value with no entry in LOG,
x >= q, arises only under a constant not of degree m, which R8 rules out; that write is dropped, a DESIGN CHOICE
(log 24). -/
def logFill (log : List Nat) : Nat → List Nat → List Nat
  | _, [] => log
  | i, x :: xs => logFill (if x = 0 then log else log.set x i) (i + 1) xs

/-- LOG of length q (R113): zeros, then `LOG[EXP[i]] <- i` for i = 0 to n - 1.  LOG[0] is 0 under every constant
(R32). -/
def logTable (n q prim : Nat) : List Nat := logFill (zeros q) 0 (powersFrom q prim n 1)

/-- The field a command computes in: n and the tables (R110). -/
structure Field where
  n   : Nat
  exp : List Nat
  log : List Nat
  deriving DecidableEq, Repr

/-- The latched field (R30 to R32). -/
def State.field (s : State) : Field := { n := s.cfg.n, exp := s.exp, log := s.log }

/-- `EXP[i]`.  No rule forms an index past the table (R122); there the model reads 0, a DESIGN CHOICE (log 23). -/
def Field.expAt (f : Field) (i : Nat) : Nat := f.exp.getD i 0

/-- `LOG[x]`, for symbols x; past the table the model reads 0, a DESIGN CHOICE (log 23). -/
def Field.logAt (f : Field) (x : Nat) : Nat := f.log.getD x 0

/-! ### Field functions -/

/-- `gf_mul(x, y)` (R114). -/
def gfMul (f : Field) (x y : Nat) : Nat :=
  if x = 0 ∨ y = 0 then 0 else f.expAt (f.logAt x + f.logAt y)

/-- The quotient of R115 for a nonzero divisor.  The subtraction is in range where LOG is R113's (R122); elsewhere it
truncates, a DESIGN CHOICE (log 23). -/
def gfQuot (f : Field) (x y : Nat) : Nat :=
  if x = 0 then 0 else f.expAt (f.logAt x + f.n - f.logAt y)

/-- `gf_div(x, y)` (R115): the divisor is tested first. -/
def gfDiv (f : Field) (x y : Nat) : Except Stop Nat := do
  failIf (y = 0) .divisionByZero
  pure (gfQuot f x y)

/-! ### Commands -/

/-- NOP (R120). -/
def execNop (s : State) : Result := command s fun s => pure s

/-- CONFIGURE's pseudocode (R112). -/
def configureBody (s : State) : Except Stop State := do
  let nn := s.cfgN.toNat
  let kk := s.cfgK.toNat
  let qq := nn + 1
  failIf (qq ∉ qSet) .configurationError
  failIf (nn < kk) .configurationError
  let mm := Nat.log2 qq
  let prim := primOf s.params mm
  pure { s with
    cfg := { n := nn, k := kk, q := qq, m := mm, nsym := nn - kk, prim := prim }
    exp := expTable nn qq prim
    log := logTable nn qq prim
    configured := true }

/-- CONFIGURE (R112). -/
def execConfigure (s : State) : Result := command s configureBody

/-- GF_MUL's pseudocode (R118). -/
def gfMulBody (s : State) : Except Stop State := do
  let x ← scalarSym s s.opA
  let y ← scalarSym s s.opB
  pure { s with result := zext32 (gfMul s.field x y) }

/-- GF_MUL (R118). -/
def execGfMul (s : State) : Result := configuredCommand s gfMulBody

/-- GF_DIV's pseudocode (R119). -/
def gfDivBody (s : State) : Except Stop State := do
  let x ← scalarSym s s.opA
  let y ← scalarSym s s.opB
  let z ← gfDiv s.field x y
  pure { s with result := zext32 z }

/-- GF_DIV (R119). -/
def execGfDiv (s : State) : Result := configuredCommand s gfDivBody

/-- GF_EXP's pseudocode (R116). -/
def gfExpBody (s : State) : Except Stop State := do
  let i := s.opA.toNat
  failIf (2 * s.cfg.n ≤ i) .operandRange
  pure { s with result := zext32 (s.field.expAt i) }

/-- GF_EXP (R116). -/
def execGfExp (s : State) : Result := configuredCommand s gfExpBody

/-- GF_LOG's pseudocode (R117). -/
def gfLogBody (s : State) : Except Stop State := do
  let x := s.opA.toNat
  failIf (s.cfg.q ≤ x) .invalidSymbol
  failIf (x = 0) .operandRange
  pure { s with result := zext32 (s.field.logAt x) }

/-- GF_LOG (R117). -/
def execGfLog (s : State) : Result := configuredCommand s gfLogBody

end Sys2Proof.Machine
end

