-- ==== Sys2Proof/Machine/Polynomial.lean ====
section
/-! DEFINITION. The polynomial unit: `poly_scale`, `poly_add`, `poly_mul`, `poly_eval` (41_polynomial R140 to R143) and the
commands POLY_SCALE, POLY_ADD, POLY_MUL, POLY_EVAL (R144 to R147). -/

namespace Sys2Proof.Machine

/-! ### Functions, most significant coefficient first (00_scope R12) -/

/-- `poly_scale(p, x)` (R140). -/
def polyScale (f : Field) (p : List Nat) (x : Nat) : List Nat := p.map fun c => gfMul f c x

/-- A sequence with zeros put before it up to length `L`: right alignment (R141). -/
def padLeft (L : Nat) (p : List Nat) : List Nat := zeros (L - p.length) ++ p

/-- `poly_add(p, r)` (R141). -/
def polyAdd (p r : List Nat) : List Nat :=
  let L := max p.length r.length
  List.zipWith (fun a b => a ^^^ b) (padLeft L p) (padLeft L r)

/-- `poly_mul(p, r)` (R142), for nonempty operands; what it gives for an empty one is no value of the spec's
(log 21). -/
def polyMul (f : Field) (p r : List Nat) : List Nat :=
  repeatUp 0 r.length (zeros (p.length + r.length - 1)) fun j out =>
    repeatUp 0 p.length out fun i out =>
      xorAt out (i + j) (gfMul f (p.getD i 0) (r.getD j 0))

/-- `poly_eval(p, x)` (R143), for a nonempty operand.  The spec gives the empty sequence no value; the model's is 0, a
DESIGN CHOICE no command reaches (log 21). -/
def polyEval (f : Field) (p : List Nat) (x : Nat) : Nat :=
  match p with
  | [] => 0
  | c :: cs => cs.foldl (fun y c => gfMul f y x ^^^ c) c

/-! ### Commands -/

/-- POLY_SCALE's pseudocode (R144). -/
def polyScaleBody (s : State) : Except Stop State := do
  let L ← readLen s.lenA
  let p ← readSyms s .pa L
  let x ← scalarSym s s.opA
  pure { s with mem := s.mem.store .pr (polyScale s.field p x), lenR := zext32 L }

/-- POLY_SCALE (R144). -/
def execPolyScale (s : State) : Result := configuredCommand s polyScaleBody

/-- POLY_ADD's pseudocode (R145). -/
def polyAddBody (s : State) : Except Stop State := do
  let la ← readLen s.lenA
  let lb ← readLen s.lenB
  let p ← readSyms s .pa la
  let r ← readSyms s .pb lb
  pure { s with mem := s.mem.store .pr (polyAdd p r), lenR := zext32 (max la lb) }

/-- POLY_ADD (R145). -/
def execPolyAdd (s : State) : Result := configuredCommand s polyAddBody

/-- POLY_MUL's pseudocode (R146). -/
def polyMulBody (s : State) : Except Stop State := do
  let la ← readLen s.lenA
  let lb ← readLen s.lenB
  let p ← readSyms s .pa la
  let r ← readSyms s .pb lb
  pure { s with mem := s.mem.store .pr (polyMul s.field p r), lenR := zext32 (la + lb - 1) }

/-- POLY_MUL (R146). -/
def execPolyMul (s : State) : Result := configuredCommand s polyMulBody

/-- POLY_EVAL's pseudocode (R147). -/
def polyEvalBody (s : State) : Except Stop State := do
  let L ← readLen s.lenA
  let p ← readSyms s .pa L
  let x ← scalarSym s s.opA
  pure { s with result := zext32 (polyEval s.field p x) }

/-- POLY_EVAL (R147). -/
def execPolyEval (s : State) : Result := configuredCommand s polyEvalBody

end Sys2Proof.Machine
end

