-- ==== Sys2Proof/Machine/DecoderFront.lean ====
section
/-! DEFINITION. The decoder front end: the erasure scan, `cw_eval`, `syndromes`, `forney` (43_decoder_front R180 to R184) and
the commands LOAD, SYNDROME, FORNEY_SYN (R180, R183, R185). -/

namespace Sys2Proof.Machine

/-! ### Functions -/

/-- `cw_eval(w, x)` (R181): the empty codeword is the zero polynomial. -/
def cwEval (f : Field) (w : List Nat) (x : Nat) : Nat :=
  if w.length = 0 then 0 else polyEval f w x

/-- `syndromes(w)` (R182), for nsym <= n, elsewhere log 23's. -/
def syndromes (f : Field) (nsym : Nat) (w : List Nat) : List Nat :=
  (List.range nsym).map fun i => cwEval f w (f.expAt i)

/-- One erasure folded out (R184): each entry j but the last becomes `f[j]*x XOR f[j+1]` of the old
entries, and the last is dropped. -/
def forneyStep (f : Field) (x : Nat) (v : List Nat) : List Nat :=
  List.zipWith (fun a b => gfMul f a x ^^^ b) v v.tail

/-- X(pos), the locator value of a position (R19): `EXP[nmess - 1 - pos]`.  For a position of nmess or more, which
has none in the spec, it is EXP[0] by truncated subtraction, a DESIGN CHOICE (log 23). -/
def locatorValue (f : Field) (nmess pos : Nat) : Nat := f.expAt (nmess - 1 - pos)

/-- `forney(S, era, nmess)` (R184), for positions below nmess and no more of them than syndromes.  Elsewhere the
spec gives no value; the model's, [] for too many erasures, is a DESIGN CHOICE no command reaches (log 23). -/
def forney (f : Field) (S era : List Nat) (nmess : Nat) : List Nat :=
  era.foldl (fun v pos => forneyStep f (locatorValue f nmess pos) v) S

/-! ### Commands -/

/-- One received entry of IN (R180): none if erased, else its symbol, which must be below q. -/
def readReceived (s : State) (i : Nat) : Except Stop (Option Nat) := do
  let (e, v) ← readIn s i
  if e then pure none
  else do
    failIf (s.cfg.q ≤ v) .invalidSymbol
    pure (some v)

/-- The working codeword of a received block (R180): an erased symbol is replaced by 0. -/
def workingCodeword (rx : List (Option Nat)) : List Nat := rx.map fun o => o.getD 0

/-- The positions of the erased symbols from position `i` on, ascending (R180). -/
def erasuresFrom : Nat → List (Option Nat) → List Nat
  | _, [] => []
  | i, none :: rx => i :: erasuresFrom (i + 1) rx
  | i, some _ :: rx => erasuresFrom (i + 1) rx

/-- LOAD's pseudocode (R180). -/
def loadBody (s : State) : Except Stop State := do
  let L := s.lenIn.toNat
  failIf (s.cfg.n < L) .inputTooLong
  let rx ← readRange (readReceived s) 0 L
  let era := erasuresFrom 0 rx
  failIf (s.cfg.nsym < era.length) .tooManyErasures
  pure { s with
    mem := (s.mem.store .work (workingCodeword rx)).store .era era
    lenWork := zext32 L
    numEra := zext32 era.length }

/-- LOAD (R180). -/
def execLoad (s : State) : Result := configuredCommand s loadBody

/-- SYNDROME's pseudocode (R183). -/
def syndromeBody (s : State) : Except Stop State := do
  let nmess ← readNmess s
  let w ← readSyms s .work nmess
  pure { s with
    mem := s.mem.store .syn (syndromes s.field s.cfg.nsym w)
    lenSyn := zext32 s.cfg.nsym }

/-- SYNDROME (R183). -/
def execSyndrome (s : State) : Result := configuredCommand s syndromeBody

/-- FORNEY_SYN's pseudocode (R185). -/
def forneySynBody (s : State) : Except Stop State := do
  let nmess ← readNmess s
  let Ls := s.lenSyn.toNat
  failIf (65536 < Ls) .operandRange
  let e := s.numEra.toNat
  failIf (Ls < e) .tooManyErasures
  let S ← readSyms s .syn Ls
  let era ← readPositions s nmess .era e
  pure { s with
    mem := s.mem.store .fsyn (forney s.field S era nmess)
    lenFsyn := zext32 (Ls - e) }

/-- FORNEY_SYN (R185). -/
def execForneySyn (s : State) : Result := configuredCommand s forneySynBody

end Sys2Proof.Machine
end

