-- ==== Sys2Proof/Machine/Locator.lean ====
section
/-! DEFINITION. The error locator `bm` and the root search `chien` (44_locator R200, R203) and the commands BM and CHIEN
(R201, R204). -/

namespace Sys2Proof.Machine

/-- The discrepancy of round `i` (R200): `S[i]` and the correlation of err with the syndrome window.
R202 proves the indices in range; an entry outside its sequence reads 0 here, a DESIGN CHOICE (log 23). -/
def discrepancy (f : Field) (S err : List Nat) (i : Nat) : Nat :=
  repeatUp 1 err.length (S.getD i 0) fun j delta =>
    delta ^^^ gfMul f (err.getD (err.length - 1 - j) 0) (S.getD (i - j) 0)

/-- Round `i` of Berlekamp-Massey on (err, old) (R200): extend, then, if the discrepancy is nonzero,
rescale and swap when old is longer, and fold.  The divisor 1/delta is of a nonzero delta. -/
def bmRound (f : Field) (S : List Nat) (i : Nat) (p : List Nat × List Nat) : List Nat × List Nat :=
  let err := p.1
  let old := p.2 ++ [0]
  let delta := discrepancy f S err i
  if delta ≠ 0 then
    if err.length < old.length then
      let new := polyScale f old delta
      let old := polyScale f err (gfQuot f 1 delta)
      (polyAdd new (polyScale f old delta), old)
    else (polyAdd err (polyScale f old delta), old)
  else (err, old)

/-- `bm(S)` (R200). -/
def bmLocator (f : Field) (S : List Nat) : List Nat :=
  (repeatUp 0 S.length ([1], [1]) (bmRound f S)).1

/-- The positions whose candidate is a root, in scan order (R203): candidate i is `EXP[n - i]` and marks
position `nmess - 1 - i`.  For nmess > n, which R204 refuses, `n - i` truncates, a DESIGN CHOICE (log 23). -/
def chienPositions (f : Field) (loc : List Nat) (nmess : Nat) : List Nat :=
  ((List.range nmess).filter fun i => polyEval f loc (f.expAt (f.n - i)) == 0).map
    fun i => nmess - 1 - i

/-- `chien(loc, nmess)` (R203), for a nonempty locator.  For an empty one, which R204 refuses, len(loc) - 1 has no value
in the spec and is 0 here, so `chien [] 0` gives [], a DESIGN CHOICE (log 23). -/
def chien (f : Field) (loc : List Nat) (nmess : Nat) : Except Stop (List Nat) := do
  let pos := chienPositions f loc nmess
  failIf (pos.length ≠ loc.length - 1) .errorLocationFailure
  pure pos

/-- BM's pseudocode (R201). -/
def bmBody (s : State) : Except Stop State := do
  let L := s.lenFsyn.toNat
  failIf (65536 < L) .operandRange
  let S ← readSyms s .fsyn L
  let err := bmLocator s.field S
  failIf (L < 2 * (err.length - 1)) .tooManyErrors
  pure { s with mem := s.mem.store .loc err, lenLoc := zext32 err.length }

/-- BM (R201). -/
def execBm (s : State) : Result := configuredCommand s bmBody

/-- CHIEN's pseudocode (R204).  It is followed where R204's corner bullet on a leading zero says otherwise: an all-zero
LOC with LEN_WORK = LEN_LOC - 1 completes with OK, a DESIGN CHOICE (log 26). -/
def chienBody (s : State) : Except Stop State := do
  let Ll := s.lenLoc.toNat
  failIf (Ll = 0 ∨ 65536 < Ll) .operandRange
  let nmess ← readNmess s
  let loc ← readSyms s .loc Ll
  let pos ← chien s.field loc nmess
  pure { s with mem := s.mem.store .errpos pos, numErrpos := zext32 pos.length }

/-- CHIEN (R204). -/
def execChien (s : State) : Result := configuredCommand s chienBody

end Sys2Proof.Machine
end

