-- ==== Sys2Proof/Machine/Correction.lean ====
section
/-! DEFINITION. The errata corrector (45_correction R220, R221), verification and block decode, and the commands CORRECT,
VERIFY, DECODE (R222, R223, R230). -/

namespace Sys2Proof.Machine

/-! ### Errata functions -/

/-- `errata_locator(pos, nmess)` (R220): the product of the factors [X(p), 1]. -/
def errataLocator (f : Field) (pos : List Nat) (nmess : Nat) : List Nat :=
  pos.foldl (fun lam p => polyMul f lam [locatorValue f nmess p, 1]) [1]

/-- `errata_evaluator(S, lam)` (R220) for E positions: the last E coefficients of the product.
Where S has fewer than E entries, which R222 refuses, it takes those there are, a DESIGN CHOICE (log 23). -/
def errataEvaluator (f : Field) (E : Nat) (S lam : List Nat) : List Nat :=
  let o := polyMul f (S.take E).reverse lam
  slice o (o.length - E) o.length

/-- `errata_derivative(lam)` (R220). -/
def errataDerivative (lam : List Nat) : List Nat := stride2 lam (lam.length &&& 1)

/-- The inverse locator value of a position (R221): `EXP[p + n + 1 - nmess]`.  Where
the index is not in R221's [1, n] (nmess > n or p ≥ nmess) it truncates or reads past EXP, a DESIGN CHOICE (log 23). -/
def inverseLocator (f : Field) (nmess p : Nat) : Nat := f.expAt (p + f.n + 1 - nmess)

/-- The denominator of the magnitude at a position (R221). -/
def magnitudeDenominator (f : Field) (der : List Nat) (nmess p : Nat) : Nat :=
  let xInv := inverseLocator f nmess p
  gfMul f xInv (polyEval f der (gfMul f xInv xInv))

/-- `magnitude(p)` (R221). -/
def magnitude (f : Field) (om der : List Nat) (nmess p : Nat) : Except Stop Nat :=
  gfDiv f (polyEval f om (inverseLocator f nmess p)) (magnitudeDenominator f der nmess p)

/-- The magnitudes of the listed positions, in order (R222). -/
def magnitudes (f : Field) (om der : List Nat) (nmess : Nat) : List Nat → Except Stop (List Nat)
  | [] => pure []
  | p :: ps => do
    let v ← magnitude f om der nmess p
    let vs ← magnitudes f om der nmess ps
    pure (v :: vs)

/-- XOR each magnitude into the codeword at its position, in order (R222).  A position outside the codeword,
and entries of the longer of two unequal lists, change nothing, a DESIGN CHOICE (log 23). -/
def applyErrata (w : List Nat) : List Nat → List Nat → List Nat
  | p :: ps, v :: vs => applyErrata (xorAt w p v) ps vs
  | _, _ => w

/-- The corrected codeword (R220 to R222), before any write. -/
def correctedCodeword (f : Field) (w S pos : List Nat) (nmess : Nat) : Except Stop (List Nat) := do
  let lam := errataLocator f pos nmess
  let om := errataEvaluator f pos.length S lam
  let der := errataDerivative lam
  let mag ← magnitudes f om der nmess pos
  pure (applyErrata w pos mag)

/-! ### CORRECT and VERIFY -/

/-- CORRECT's pseudocode (R222). -/
def correctBody (s : State) : Except Stop State := do
  let nmess ← readNmess s
  let Ls := s.lenSyn.toNat
  failIf (65536 < Ls) .operandRange
  let ne := s.numEra.toNat
  let nr := s.numErrpos.toNat
  failIf (65536 < ne ∨ 65536 < nr) .operandRange
  let E := ne + nr
  if E = 0 then pure s
  else do
    failIf (Ls < E) .operandRange
    let w ← readSyms s .work nmess
    let S ← readSyms s .syn E
    let era ← readPositions s nmess .era ne
    let err ← readPositions s nmess .errpos nr
    let w ← correctedCodeword s.field w S (era ++ err) nmess
    pure { s with mem := s.mem.store .work w }

/-- CORRECT (R222). -/
def execCorrect (s : State) : Result := configuredCommand s correctBody

/-- Whether every entry of a sequence is 0. -/
def allZero (S : List Nat) : Bool := S.all fun v => v == 0

/-- The write of a decoded message (R223, R230): the codeword less its nsym parity symbols. -/
def writeMessage (s : State) (nmess : Nat) (w : List Nat) : State :=
  let L := nmess - s.cfg.nsym
  { s with mem := s.mem.store .out (w.take L), lenOut := zext32 L }

/-- VERIFY's pseudocode (R223). -/
def verifyBody (s : State) : Except Stop State := do
  let nmess ← readNmess s
  let w ← readSyms s .work nmess
  failIf (allZero (syndromes s.field s.cfg.nsym w) = false) .correctionVerificationFailure
  pure (writeMessage s nmess w)

/-- VERIFY (R223). -/
def execVerify (s : State) : Result := configuredCommand s verifyBody

/-! ### DECODE -/

/-- `run X` inside DECODE (R230): if stage X fails with code c, DECODE stops and completes with c, the
earlier stages' writes kept (R232); a model fault stops the machine (R16). -/
def runStage (stage : State → Except Stop State) (s : State) (rest : State → Result) : Result :=
  match stage s with
  | .ok t => rest t
  | .error (.fail c) => .next (s.finish c)
  | .error (.fault f) => .fault f

/-- The short-circuit test of R230 on the syndromes SYNDROME wrote: every `SYN[i]`, i in [0, nsym), is 0. -/
def synAllZero (s : State) : Except Stop Bool := do
  let S ← readRaw s .syn s.cfg.nsym
  pure (allZero S)

/-- The short-circuit of R230, R231: WORK less its parity to OUT. -/
def shortCircuit (s : State) : Except Stop State := do
  let w ← readRaw s .work (s.lenWork.toNat - s.cfg.nsym)
  pure (writeMessage s s.lenWork.toNat w)

/-- DECODE's stages after the short-circuit test (R230). -/
def decodeErrata (s : State) : Result :=
  runStage forneySynBody s fun s =>
  runStage bmBody s fun s =>
  runStage chienBody s fun s =>
  runStage correctBody s fun s =>
  runStage verifyBody s fun s => .next (s.finish .ok)

/-- DECODE's stages (R230). -/
def decodeStages (s : State) : Result :=
  runStage loadBody s fun s =>
  runStage syndromeBody s fun s =>
  match synAllZero s with
  | .ok true => runStage shortCircuit s fun s => .next (s.finish .ok)
  | .ok false => decodeErrata s
  | .error (.fail c) => .next (s.finish c)
  | .error (.fault f) => .fault f

/-- DECODE (R230). -/
def execDecode (s : State) : Result :=
  runStage (fun s => do needConfigured s; pure s) s decodeStages

end Sys2Proof.Machine
end

