-- ==== Sys2Proof/Machine/Encoder.lean ====
section
/-! DEFINITION. The encoder: `generator` and `encode` (42_encoder R160, R162) and the commands GEN_POLY and ENCODE
(R161, R163). -/

namespace Sys2Proof.Machine

/-- `generator(t)` (R160): roots alpha^0 to alpha^(t-1).  R160 has t = nsym <= n; for other t the same loop runs, with
0 for an index past EXP, a DESIGN CHOICE (log 23). -/
def generator (f : Field) (t : Nat) : List Nat :=
  repeatUp 0 t [1] fun i g => polyMul f g [1, f.expAt i]

/-- One round of the encoder's division (R162): the working coefficient `buf[i]`, if nonzero, scales a
copy of `g` into the buffer from position i. -/
def encodeRound (f : Field) (g : List Nat) (nsym : Nat) (i : Nat) (buf : List Nat) : List Nat :=
  let coef := buf.getD i 0
  if coef ≠ 0 then
    repeatUp 0 (nsym + 1) buf fun j buf => xorAt buf (i + j) (gfMul f (g.getD j 0) coef)
  else buf

/-- `encode(msg)` (R162), for a sequence of symbols with len(msg) + nsym <= n: the message, then the remainder.
Beyond that bound, which R163 checks, the spec gives no value; the model runs the same division, a DESIGN CHOICE
(log 23). -/
def encodeBlock (f : Field) (nsym : Nat) (msg : List Nat) : List Nat :=
  let g := generator f nsym
  let L := msg.length
  let buf := repeatUp 0 L (msg ++ zeros nsym) (encodeRound f g nsym)
  msg ++ slice buf L (L + nsym)

/-- GEN_POLY's pseudocode (R161). -/
def genPolyBody (s : State) : Except Stop State :=
  pure { s with
    mem := s.mem.store .gen (generator s.field s.cfg.nsym)
    lenGen := zext32 (s.cfg.nsym + 1) }

/-- GEN_POLY (R161). -/
def execGenPoly (s : State) : Result := configuredCommand s genPolyBody

/-- One message symbol of IN (R163): not erased, and below q. -/
def readMessageSym (s : State) (i : Nat) : Except Stop Nat := do
  let (e, v) ← readIn s i
  failIf (e = true) .invalidSymbol
  failIf (s.cfg.q ≤ v) .invalidSymbol
  pure v

/-- ENCODE's pseudocode (R163). -/
def encodeBody (s : State) : Except Stop State := do
  let L := s.lenIn.toNat
  let nsym := s.cfg.nsym
  failIf (s.cfg.n < L + nsym) .inputTooLong
  let msg ← readRange (readMessageSym s) 0 L
  let g := generator s.field nsym
  let c := encodeBlock s.field nsym msg
  pure { s with
    mem := (s.mem.store .gen g).store .out c
    lenGen := zext32 (nsym + 1)
    lenOut := zext32 (L + nsym) }

/-- ENCODE (R163). -/
def execEncode (s : State) : Result := configuredCommand s encodeBody

end Sys2Proof.Machine
end

