-- ==== Sys2Proof/Machine/Dispatch.lean ====
section
/-! DEFINITION. One arm per command (30_encoding R93).  The NOT_CONFIGURED check of R93 stands in each meaning. -/

namespace Sys2Proof.Machine

def exec (i : Instr) (s : State) : Host.Outcome State Fault Refusal :=
  match i with
  | .nop => Sys2Proof.Machine.execNop s
  | .configure => Sys2Proof.Machine.execConfigure s
  | .gfMul => Sys2Proof.Machine.execGfMul s
  | .gfDiv => Sys2Proof.Machine.execGfDiv s
  | .gfExp => Sys2Proof.Machine.execGfExp s
  | .gfLog => Sys2Proof.Machine.execGfLog s
  | .polyScale => Sys2Proof.Machine.execPolyScale s
  | .polyAdd => Sys2Proof.Machine.execPolyAdd s
  | .polyMul => Sys2Proof.Machine.execPolyMul s
  | .polyEval => Sys2Proof.Machine.execPolyEval s
  | .genPoly => Sys2Proof.Machine.execGenPoly s
  | .encode => Sys2Proof.Machine.execEncode s
  | .load => Sys2Proof.Machine.execLoad s
  | .syndrome => Sys2Proof.Machine.execSyndrome s
  | .forneySyn => Sys2Proof.Machine.execForneySyn s
  | .bm => Sys2Proof.Machine.execBm s
  | .chien => Sys2Proof.Machine.execChien s
  | .correct => Sys2Proof.Machine.execCorrect s
  | .verify => Sys2Proof.Machine.execVerify s
  | .decode => Sys2Proof.Machine.execDecode s

end Sys2Proof.Machine
end

