-- ==== Sys2Proof/Machine/Engine.lean ====
section
/-! DEFINITION. The engine's step on the latched word (30_encoding R93 to R95), whose turn it is (20_memory R67,
70_reset_and_hazards R290), and the host's turn. -/

namespace Sys2Proof.Machine

/-- Execute PENDING (R93): a legal word runs its command, an illegal one completes with ILLEGAL_COMMAND
and changes nothing but STATUS (R95). -/
def runPending (s : State) : Result :=
  match decodeWord s.pending with
  | .ok i => exec i s
  | .error _ => .next (s.finish .illegalCommand)

/-- Whether the engine moves next.  Its step is enabled exactly when BUSY = 1 (R290); it is taken once the
host moves that precede it are done, or when the host has none left (log 5). -/
def State.engineTurn (s : State) : Bool := !s.rst && s.busy && (s.wait == 0 || s.host.isEmpty)

/-- The host's turn: its next move, or nothing if it has none (log 13). -/
def hostTurn (s : State) : Result :=
  match s.host with
  | [] => .next s
  | op :: rest => hostMove { s with host := rest, wait := s.wait - 1 } op

/-- A word latched and the engine's step due at once: what a CMD write leaves (R25), with no host move
before the engine's. -/
def State.latchNow (s : State) (w : Word) : State := { s.latch w with rst := false, wait := 0 }

end Sys2Proof.Machine
end

