-- ==== Sys2Proof/Machine/Step.lean ====
section
/-! DEFINITION. One step of the machine: the engine's or the host's (20_memory R67). -/

namespace Sys2Proof.Machine

/-- One step: the engine executes PENDING if it is its turn, else the host makes its next move. -/
def step (s : State) : Host.Outcome State Fault Refusal :=
  if s.engineTurn then runPending s else hostTurn s

/-- The state in which a table row's word stands latched in PENDING, so that the very next step runs it.
It stands for the CMD write that issues the command (R25); a row wider than a command word (none in the
table) changes nothing. -/
def State.withFetchWord (s : State) (nbits w : Nat) : State :=
  match tableWord? nbits w with
  | some v => s.latchNow v
  | none => s

end Sys2Proof.Machine
end

