-- ==== Sys2Proof/Machine/Script.lean ====
section
/-! DEFINITION. Host scripts: the pseudo-instructions and their expansions (30_encoding R97, R98). -/

namespace Sys2Proof.Machine

/-- A 32-bit host write: `WR off, v` (R97). -/
def wr (off : Nat) (v : Word) : HostOp := .write off 4 v

/-- `CMD <MNEMONIC>` (R98): a write of the command word to CMD. -/
def cmdOp (i : Instr) : HostOp := wr Reg.cmd.offset (encode i)

/-- `WAIT` (R98): `POLL 0x008, 0x00000001, 0x00000000`. -/
def waitOp : HostOp := .poll Reg.status.offset 0x00000001 0x00000000

/-- `SYM <BUF>[i], v` (R98). -/
def symOp (b : Buf) (i : Nat) (v : Word) : HostOp := wr (b.base + 4 * i) v

/-- `SYM` of each value, from entry `i` on. -/
def symOpsFrom (b : Buf) : Nat → List Word → List HostOp
  | _, [] => []
  | i, v :: vs => symOp b i v :: symOpsFrom b (i + 1) vs

/-- The bus moves a script line stands for (R97, R98). -/
def expand : Pseudo → List HostOp
  | .wr off v => [wr off v]
  | .rd off => [.read off 4 .discard]
  | .rdTo off name => [.read off 4 (.bind name)]
  | .poll off mask val => [.poll off mask val]
  | .cmd i => [cmdOp i]
  | .wait => [waitOp]
  | .run i => [cmdOp i, waitOp]
  | .ack => [wr Reg.status.offset 0x0000000A]
  | .sym b i v => [symOp b i v]
  | .erase i => [symOp .inp i 0x80000000]
  | .loadSyms b vs => symOpsFrom b 0 vs
  | .expect off v => [.read off 4 (.expect v)]

/-- The bus moves of a script. -/
def expandAll (ps : List Pseudo) : List HostOp := ps.flatMap expand

/-- A machine with a host script to perform after what is queued already (log 4). -/
def State.withScript (s : State) (ps : List Pseudo) : State :=
  { s with host := s.host ++ expandAll ps }

end Sys2Proof.Machine
end

