-- ==== Sys2Proof/Safety.lean ====
section
/-! DEFINITION. What claims are stated in: launch predicates (70_reset_and_hazards R289), the end of a run and a script's claims
(R288), safe runs, readable operands, and the machine's invariant. -/

namespace Sys2Proof.Machine

/-! ### Launch predicates (R289) -/

/-- `Idle`: BUSY = 0. -/
abbrev State.Idle (s : State) : Prop := s.busy = false

/-- `Written(B, L)` (R289): entries 0 to L - 1 of B are written.  R289 gives it no meaning for L above B's depth, where
there are no such entries; the model then asks about the addresses past B, those of the next buffer, a DESIGN CHOICE
(log 25). -/
abbrev State.Written (s : State) (b : Buf) (L : Nat) : Prop := ∀ i < L, (s.mem.entry? b i).isSome = true

/-- `Reset` (R289): the engine's state is that of R280.  R289 says nothing of the host's remaining moves, its past reads
or the model's counters, and they are free here as in `LaunchConfigured`, a DESIGN CHOICE (log 28); so are the
parameters, of which `State.reset` has the default ones (log 10). -/
def State.IsReset (s : State) : Prop := s = { s.toReset with wait := s.wait }

/-- `Configured(n, k)`: Reset, then CFG_N = n, CFG_K = k and a successful CONFIGURE, and nothing else.  The
host's remaining moves, its past reads and the model's counters are free, a DESIGN CHOICE (log 28). -/
def State.LaunchConfigured (s : State) (n k : Word) : Prop :=
  ∃ t, exec .configure ((({ State.reset with params := s.params, cfgN := n, cfgK := k } : State)).latch
      (encode .configure)) = .next t ∧
    t.code = .ok ∧ s = { t with host := s.host, reads := s.reads, wait := s.wait, free := s.free }

/-- `NoFault` for `k` steps from a state: no model fault is reached (R16, R289). -/
def State.SafeFor (s : State) (k : Nat) : Prop := ∃ t, Sys2Proof.core.run k s = .next t

/-! ### End of a run (R288) -/

/-- The script's last move has been made and the engine is IDLE. -/
def State.runOver (s : State) : Bool := s.host.isEmpty && !s.busy

/-- Every `EXPECT` line performed so far read the value it claims. -/
def State.claimsHold (s : State) : Bool :=
  s.reads.all fun r => match r.use with
    | .discard | .bind _ => true
    | .expect v => r.value == v

/-! ### Operands in buffers -/

/-- SYM of entry `i` of a buffer, 0 where it is unwritten: used only beside a readiness premise. -/
def State.symAt (s : State) (b : Buf) (i : Nat) : Nat := symField ((s.mem.entry? b i).getD 0)

/-- The symbols of entries 0 to L - 1. -/
def State.symsOf (s : State) (b : Buf) (L : Nat) : List Nat := (List.range L).map (s.symAt b)

/-- Entries 0 to L - 1 of a symbol buffer are written and hold symbols below q (R111). -/
abbrev State.SymsReady (s : State) (b : Buf) (L : Nat) : Prop :=
  s.Written b L ∧ ∀ i < L, s.symAt b i < s.cfg.q

/-- Entries 0 to L - 1 of a position buffer are written and hold positions below `limit` (R111). -/
abbrev State.PositionsReady (s : State) (b : Buf) (L limit : Nat) : Prop :=
  s.Written b L ∧ ∀ i < L, s.symAt b i < limit

/-- ERASED of IN entry `i` (R37). -/
def State.erasedAt (s : State) (i : Nat) : Bool := erasedField ((s.mem.entry? .inp i).getD 0)

/-- Entries 0 to L - 1 of IN are a message: written, not erased, below q (R163). -/
abbrev State.MessageReady (s : State) (L : Nat) : Prop :=
  s.SymsReady .inp L ∧ ∀ i < L, s.erasedAt i = false

/-- Entries 0 to L - 1 of IN are a received block: written, and below q where not erased (R180). -/
abbrev State.ReceivedReady (s : State) (L : Nat) : Prop :=
  s.Written .inp L ∧ ∀ i < L, s.erasedAt i = false → s.symAt .inp i < s.cfg.q

/-- The received block in IN (R180): none where erased. -/
def State.receivedOf (s : State) (L : Nat) : List (Option Nat) :=
  (List.range L).map fun i => if s.erasedAt i then none else some (s.symAt .inp i)

/-- Entry `i` of a symbol buffer is the first of L that `read_syms` cannot read: it is unwritten and the
entries below it are ready (R111, R252). -/
abbrev State.UnwrittenAt (s : State) (b : Buf) (L i : Nat) : Prop :=
  i < L ∧ s.SymsReady b i ∧ s.mem.entry? b i = none

/-- Entry `i` of a symbol buffer is the first of L that is no symbol: it holds q or more and the entries
below it are ready (R111, R252). -/
abbrev State.InvalidAt (s : State) (b : Buf) (L i : Nat) : Prop :=
  i < L ∧ s.SymsReady b i ∧ (s.mem.entry? b i).isSome = true ∧ s.cfg.q ≤ s.symAt b i

/-- Entry `i` of a position buffer is the first of L that is unwritten (R111). -/
abbrev State.PosUnwrittenAt (s : State) (b : Buf) (L limit i : Nat) : Prop :=
  i < L ∧ s.PositionsReady b i limit ∧ s.mem.entry? b i = none

/-- Entry `i` of a position buffer is the first of L at or above the limit (R111). -/
abbrev State.PosBadAt (s : State) (b : Buf) (L limit i : Nat) : Prop :=
  i < L ∧ s.PositionsReady b i limit ∧ (s.mem.entry? b i).isSome = true ∧ limit ≤ s.symAt b i

/-- Entry `i` of IN is the first of L that is no message symbol: erased, or q or more (R163). -/
abbrev State.MessageBadAt (s : State) (L i : Nat) : Prop :=
  i < L ∧ s.MessageReady i ∧ (s.mem.entry? .inp i).isSome = true ∧
    (s.erasedAt i = true ∨ s.cfg.q ≤ s.symAt .inp i)

/-- Entry `i` of IN is the first of L that is no received symbol: not erased and q or more (R180). -/
abbrev State.ReceivedBadAt (s : State) (L i : Nat) : Prop :=
  i < L ∧ s.ReceivedReady i ∧ (s.mem.entry? .inp i).isSome = true ∧
    s.erasedAt i = false ∧ s.cfg.q ≤ s.symAt .inp i

/-! ### Stages one by one -/

/-- Run what follows a command only if the command completed with OK (R230: DECODE stops at the first
stage that fails). -/
def andThen (r : Result) (next : State → Result) : Result :=
  match r with
  | .next t => if t.code = .ok then next t else .next t
  | .fault f => .fault f
  | .refused e => .refused e

/-! ### The invariant -/

/-- The configuration and the tables a successful CONFIGURE leaves (R112, R113). -/
def State.cfgValid (s : State) : Bool :=
  qSet.contains s.cfg.q &&
  s.cfg.q == s.cfg.n + 1 &&
  s.cfg.k ≤ s.cfg.n &&
  s.cfg.nsym == s.cfg.n - s.cfg.k &&
  s.cfg.m == Nat.log2 s.cfg.q &&
  s.cfg.prim == primOf s.params s.cfg.m &&
  s.exp == expTable s.cfg.n s.cfg.q s.cfg.prim &&
  s.log == logTable s.cfg.n s.cfg.q s.cfg.prim

/-- R30: while CONFIGURED = 0 every field of cfg is 0 and the tables hold nothing; while CONFIGURED = 1 they
are what CONFIGURE built. -/
def State.cfgInv (s : State) : Bool :=
  if s.configured then s.cfgValid else s.cfg == Cfg.zero && s.exp == [] && s.log == []

/-- R23, R25, R281: while BUSY, DONE is 0 and CODE is 0x00; under RST the engine is not BUSY. -/
def State.statusInv (s : State) : Bool :=
  (!s.busy || (!s.done && s.code == .ok)) && (!s.rst || !s.busy)

/-- The bits of byte lane `j` of a buffer entry that the entry's format defines (R37 to R39). -/
def laneMask (b : Buf) (j : Nat) : Byte := byteLane b.mask j

/-- A listed byte lies in a buffer and holds 0 in the bits the entry format reserves (R36 to R39). -/
def cellOk (c : Host.Cell) : Bool :=
  Buf.all.any fun b =>
    b.base ≤ c.1 && c.1 < b.base + 4 * b.depth && (c.2 &&& laneMask b (c.1 % 4) == c.2)

/-- Buffer memory is in canonical form, and every listed byte keeps its entry's format. -/
def State.memInv (s : State) : Bool := s.mem.wf && s.mem.all cellOk

/-- The lengths only the engine writes fit their buffers (R33, R36). -/
def State.lenInv (s : State) : Bool :=
  s.lenOut.toNat ≤ Buf.out.depth && s.lenGen.toNat ≤ Buf.gen.depth && s.lenR.toNat ≤ Buf.pr.depth &&
  s.result.toNat < 65536

/-- The machine's invariant: well-formed parameters (R8), R30's configuration, R23's status, buffer memory
in format, and lengths in range. -/
abbrev State.Inv (s : State) : Prop :=
  s.params.wellFormed = true ∧ s.cfgInv = true ∧ s.statusInv = true ∧ s.memInv = true ∧ s.lenInv = true

/-! ### Primitivity (R9, R113) -/

/-- The tables of a configuration come from a primitive polynomial: the n powers of alpha are distinct
and lie in [1, q). -/
abbrev Primitive (n q prim : Nat) : Prop :=
  (powersFrom q prim n 1).Nodup ∧ ∀ x ∈ powersFrom q prim n 1, 1 ≤ x ∧ x < q

/-- Byte `a` lies in entries 0 to L - 1 of a buffer. -/
abbrev InEntries (b : Buf) (L a : Nat) : Prop := b.base ≤ a ∧ a < b.base + 4 * L

/-- Every byte of a buffer reads in `t` as in `s`. -/
abbrev KeepsBuffer (b : Buf) (s t : State) : Prop :=
  ∀ a, InEntries b b.depth a → t.mem.read? a = s.mem.read? a

end Sys2Proof.Machine
end

