-- ==== Sys2Proof/Certificates/Slice0/Obligations.lean ====
section
/-! DEFINITION. The statements for the provers, named as in OBLIGATIONS.json. -/

open Sys2Proof Sys2Proof.Machine

/-! ### Encoding and dispatch -/

/-- Sanity: words of R92 written out decode to their commands, and reserved bits and unknown opcodes are
refused by name. -/
def Obligations.OpcodeMapWords : Prop :=
  decodeWord 0x00000000 = .ok .nop ∧ decodeWord 0x00000001 = .ok .configure ∧
  decodeWord 0x00000010 = .ok .gfMul ∧ decodeWord 0x00000023 = .ok .polyEval ∧
  decodeWord 0x00000031 = .ok .encode ∧ decodeWord 0x00000042 = .ok .forneySyn ∧
  decodeWord 0x00000043 = .ok .bm ∧ decodeWord 0x0000004F = .ok .decode ∧
  decodeWord 0x00000100 = .error .reservedBits ∧ decodeWord 0xFFFFFF4F = .error .reservedBits ∧
  decodeWord 0x00000002 = .error .unknownOpcode ∧ decodeWord 0x000000FF = .error .unknownOpcode

/-- R94: of all 32-bit words, the twenty opcodes of R92 with RSVD = 0 are legal, each the word of one
command, and every other word completes with ILLEGAL_COMMAND.  When it is the engine's turn is the model's schedule
(log 5). -/
def Obligations.OnlyTwentyWordsAreLegal : Prop :=
  ∀ w : Word,
    (∀ i : Instr, decodeWord w = .ok i ↔ w = encode i) ∧
    ((∃ i : Instr, decodeWord w = .ok i) ↔
      w ∈ ([0x00, 0x01, 0x10, 0x11, 0x12, 0x13, 0x20, 0x21, 0x22, 0x23, 0x30, 0x31,
            0x40, 0x41, 0x42, 0x43, 0x44, 0x45, 0x46, 0x4F] : List Word)) ∧
    ((∀ i : Instr, decodeWord w ≠ .ok i) →
      ∀ s : State, s.rst = false → s.busy = true → (s.wait = 0 ∨ s.host = []) → s.pending = w →
        step s = .next (s.finish .illegalCommand))

/-- A step runs the latched command: with RST released, BUSY = 1 and no host move due before the engine's,
step is exec of the command PENDING decodes to; and the word a table row's bits give is run by the very
next step.  The engine's step adds nothing around exec.  In every other state the step is the host's next move, said
move by move: a write and a read are the bus access, a read's value is recorded, a POLL is a read that is over
when the masked value matches, a wait for IRQ is over when IRQ is 1, and RST resets or releases.
The schedule (who moves when both may, and `wait`), the queue of moves, the idle step, RST's reset at assertion, the
record of reads and the wait for IRQ as a move are the model's choices (logs 5, 4, 13, 9, 14, 22). -/
def Obligations.StepRunsLatchedCommand : Prop :=
  (∀ (s : State) (i : Instr), s.rst = false → s.busy = true → (s.wait = 0 ∨ s.host = []) →
    decodeWord s.pending = .ok i → i.wellFormed = true → step s = exec i s) ∧
  (∀ (s : State) (nbits w : Nat) (i : Instr), decodeTableWord nbits w = some i →
    step (s.withFetchWord nbits w) = exec i (s.withFetchWord nbits w)) ∧
  (∀ s : State, s.rst = true ∨ s.busy = false ∨ (s.wait ≠ 0 ∧ s.host ≠ []) →
    step s = hostTurn s ∧
    (s.host = [] → step s = .next s) ∧
    ∀ (op : HostOp) (rest : List HostOp), s.host = op :: rest →
      let u : State := { s with host := rest, wait := s.wait - 1 }
      (∀ a size v, op = .write a size v →
        (∀ t, busWrite u a size v = .ok t → step s = .next t) ∧
        (∀ f, busWrite u a size v = .error f → step s = .fault f)) ∧
      (∀ a size use, op = .read a size use →
        (∀ v t, busRead u a size = .ok (v, t) →
          step s = .next { t with reads := { addr := a, value := v, use := use } :: s.reads }) ∧
        (∀ f, busRead u a size = .error f → step s = .fault f)) ∧
      (∀ a mask val, op = .poll a mask val →
        (∀ v t, busRead u a 4 = .ok (v, t) →
          step s = .next { t with
            reads := { addr := a, value := v, use := .discard } :: s.reads
            host := if v &&& mask = val then rest else op :: rest }) ∧
        (∀ f, busRead u a 4 = .error f → step s = .fault f)) ∧
      (op = .waitIrq → step s = .next (if s.done && s.ie then u else { u with host := op :: rest })) ∧
      (op = .rst true → step s = .next
        { State.reset with params := s.params, host := rest, reads := s.reads, free := s.free, rst := true }) ∧
      (op = .rst false → step s = .next (if s.rst then
        { State.reset with params := s.params, host := rest, reads := s.reads, free := s.free } else u)))

/-- R93: when the engine executes PENDING, an illegal word fails with ILLEGAL_COMMAND; then a command other
than NOP and CONFIGURE fails with NOT_CONFIGURED while CONFIGURED = 0; then the command's rule runs.  When it is the
engine's turn is the model's schedule (log 5). -/
def Obligations.DispatchOrder : Prop :=
  ∀ s : State, s.rst = false → s.busy = true → (s.wait = 0 ∨ s.host = []) →
    (rsvdField s.pending ≠ 0 ∨ Instr.ofOpcode? (opcodeField s.pending) = none →
      step s = .next (s.finish .illegalCommand)) ∧
    (∀ i : Instr, rsvdField s.pending = 0 → Instr.ofOpcode? (opcodeField s.pending) = some i →
      (i ≠ .nop → i ≠ .configure → s.configured = false → step s = .next (s.finish .notConfigured)) ∧
      (i = .nop ∨ i = .configure ∨ s.configured = true → step s = exec i s))

/-- R95: executing a word that is no command's changes nothing but STATUS (CODE, BUSY, DONE), configured
or not, and the CMD write that latched it is no bus error.  When it is the engine's turn is the model's schedule
(log 5). -/
def Obligations.IllegalWordChangesOnlyStatus : Prop :=
  (∀ s : State, s.rst = false → s.busy = true → (s.wait = 0 ∨ s.host = []) →
    (∀ i : Instr, s.pending ≠ encode i) →
    step s = .next { s with code := .illegalCommand, busy := false, done := true }) ∧
  StatusCode.illegalCommand.byte = 0x0B ∧
  ∀ (s : State) (w : Word), ∃ t, busWrite s 0x00C 4 w = .ok t

/-! ### Field engine -/

/-- R120: NOP completes with OK, configured or not, and changes nothing but STATUS; after reset STATUS
then reads 0x00000002. -/
def Obligations.NopCompletes : Prop :=
  (∀ s : State, exec .nop s = .next { s with code := .ok, busy := false, done := true }) ∧
  ∃ t, exec .nop State.reset = .next t ∧ t.readReg .status = 0x00000002

/-- R112: CONFIGURE latches n, k, q, m, nsym, prim and builds EXP and LOG when CFG_N + 1 is one of 4, 8,
..., 65536 and CFG_K <= CFG_N; otherwise it fails with CONFIGURATION_ERROR and changes nothing but STATUS.
For a PRIM_TABLE constant not of degree m, which R8 rules out, what the tables hold is the model's choice (log 24),
and where the table list is too short the constant itself (log 10).  LOG[0] is R32's 0 also where the loop of R113
reaches 0 (log 27). -/
def Obligations.ConfigureLatchesOrFails : Prop :=
  ∀ s : State,
    (∀ m : Nat, 2 ≤ m → m ≤ 16 → s.cfgN.toNat + 1 = 2 ^ m → s.cfgK.toNat ≤ s.cfgN.toNat →
      exec .configure s = .next { s with
        cfg := { n := s.cfgN.toNat, k := s.cfgK.toNat, q := 2 ^ m, m := m,
                 nsym := s.cfgN.toNat - s.cfgK.toNat, prim := s.params.primTable.getD (m - 2) 0 }
        exp := expTable s.cfgN.toNat (2 ^ m) (s.params.primTable.getD (m - 2) 0)
        log := logTable s.cfgN.toNat (2 ^ m) (s.params.primTable.getD (m - 2) 0)
        configured := true, code := .ok, busy := false, done := true }) ∧
    ((∀ m : Nat, 2 ≤ m → m ≤ 16 → s.cfgN.toNat + 1 ≠ 2 ^ m) ∨ s.cfgN.toNat < s.cfgK.toNat →
      exec .configure s =
        .next { s with code := .configurationError, busy := false, done := true })

/-- R113: EXP has 2n entries built by doubling and reducing on the bit of weight q (90_conflicts C2), with
EXP[0] = 1 (C10) and period n; LOG has q entries, LOG[0] is 0 under every constant (R32; that the loop does not write
it where it reaches 0 is the model's reading, log 27), and for x in [1, q) LOG[x] is the last i below n with EXP[i] = x,
0 where there is none; and the contract EXP[LOG[x]] = x for x in [1, q) holds exactly when the constant is primitive
(an inference R113 marks as derived), and then LOG[1] = 0, LOG is below n and LOG[EXP[i]] = i.  The default
constants of R9 for GF(4) to GF(64) are primitive.
For a constant not of degree m, which R8 rules out, the tables are the model's choice (log 24). -/
def Obligations.TableContract : Prop :=
  (∀ m prim : Nat, 2 ≤ m →
    let q := 2 ^ m
    let n := q - 1
    let E := fun i => (expTable n q prim).getD i 0
    let Lg := fun x => (logTable n q prim).getD x 0
    (expTable n q prim).length = 2 * n ∧ (logTable n q prim).length = q ∧
    E 0 = 1 ∧ E 1 = 2 ∧
    (∀ i, i + 1 < n → E (i + 1) = if (2 * E i) &&& q ≠ 0 then (2 * E i) ^^^ prim else 2 * E i) ∧
    (∀ i, n ≤ i → i < 2 * n → E i = E (i - n)) ∧
    Lg 0 = 0 ∧
    (∀ x, 1 ≤ x → x < q →
      (∀ i < n, E i = x → (∀ j < n, i < j → E j ≠ x) → Lg x = i) ∧ ((∀ i < n, E i ≠ x) → Lg x = 0)) ∧
    ((∀ x, 1 ≤ x → x < q → E (Lg x) = x) ↔ Primitive n q prim) ∧
    (Primitive n q prim → Lg 1 = 0 ∧ (∀ x, x < q → Lg x < n) ∧ ∀ i < n, Lg (E i) = i)) ∧
  Primitive 3 4 0x7 ∧ Primitive 7 8 0xB ∧ Primitive 15 16 0x13 ∧ Primitive 31 32 0x25 ∧
    Primitive 63 64 0x43

/-- R121, which the spec marks as its own inference (derived from R113, R114 and R115): the field laws, for a
primitive constant of degree m and symbols below q. -/
def Obligations.FieldLaws : Prop :=
  ∀ m prim : Nat, 2 ≤ m → m ≤ 16 → 2 ^ m ≤ prim → prim < 2 ^ (m + 1) → Primitive (2 ^ m - 1) (2 ^ m) prim →
    let q := 2 ^ m
    let n := q - 1
    let f : Field := { n := n, exp := expTable n q prim, log := logTable n q prim }
    (∀ x y, x < q → y < q → gfMul f x y < q ∧ gfMul f x y = gfMul f y x) ∧
    (∀ x y z, x < q → y < q → z < q → gfMul f (gfMul f x y) z = gfMul f x (gfMul f y z)) ∧
    (∀ x, x < q → gfMul f x 1 = x ∧ gfMul f x 0 = 0) ∧
    (∀ x y z, x < q → y < q → z < q → gfMul f x (y ^^^ z) = gfMul f x y ^^^ gfMul f x z) ∧
    (∀ x y, x < q → y < q → y ≠ 0 →
      gfDiv f (gfMul f x y) y = .ok x ∧ ∃ z, gfDiv f x y = .ok z ∧ z < q ∧ gfMul f z y = x) ∧
    (∀ y, y < q → y ≠ 0 → ∃ z, gfDiv f 1 y = .ok z ∧ z < q ∧ gfMul f y z = 1 ∧
      ∀ u, u < q → gfMul f y u = 1 → u = z) ∧
    (∀ x : Nat, x ^^^ x = 0) ∧
    (∀ i, i < 2 * n → f.expAt i = f.expAt (i % n)) ∧
    (∀ i, i < n → f.logAt (f.expAt i) = i)

/-- R118, R114: GF_MUL checks OPA, then OPB, over all 32 bits, and else writes the product to RESULT; `gfMul` is
that product.  For operands outside R114's symbols and tables other than R113's, that an index past a table reads 0 is
the model's choice (logs 2, 23). -/
def Obligations.GfMulResult : Prop :=
  (∀ s : State, s.configured = true →
    (s.cfg.q ≤ s.opA.toNat ∨ s.cfg.q ≤ s.opB.toNat →
      exec .gfMul s = .next (s.finish .invalidSymbol)) ∧
    (s.opA.toNat < s.cfg.q → s.opB.toNat < s.cfg.q →
      exec .gfMul s = .next (({ s with result := zext32 (
        if s.opA.toNat = 0 ∨ s.opB.toNat = 0 then 0
        else s.exp.getD (s.log.getD s.opA.toNat 0 + s.log.getD s.opB.toNat 0) 0) } : State).finish .ok))) ∧
  ∀ (f : Field) (x y : Nat),
    gfMul f x y = if x = 0 ∨ y = 0 then 0 else f.exp.getD (f.log.getD x 0 + f.log.getD y 0) 0

/-- R119, R115: GF_DIV checks OPA, OPB, then the zero divisor (so 0/0 is DIVISION_BY_ZERO), and else writes
the quotient to RESULT; `gfDiv` is that quotient, the zero divisor tested first.  For operands outside R115's
symbols and tables other than R113's, the truncated index and the 0 past a table are the model's choice (logs 2, 23). -/
def Obligations.GfDivResult : Prop :=
  (∀ s : State, s.configured = true →
    (s.cfg.q ≤ s.opA.toNat ∨ s.cfg.q ≤ s.opB.toNat →
      exec .gfDiv s = .next (s.finish .invalidSymbol)) ∧
    (s.opA.toNat < s.cfg.q → s.opB.toNat < s.cfg.q → s.opB.toNat = 0 →
      exec .gfDiv s = .next (s.finish .divisionByZero)) ∧
    (s.opA.toNat < s.cfg.q → s.opB.toNat < s.cfg.q → s.opB.toNat ≠ 0 →
      exec .gfDiv s = .next (({ s with result := zext32 (
        if s.opA.toNat = 0 then 0
        else s.exp.getD (s.log.getD s.opA.toNat 0 + s.cfg.n - s.log.getD s.opB.toNat 0) 0) } : State).finish
          .ok))) ∧
  ∀ (f : Field) (x y : Nat),
    gfDiv f x 0 = .error (.fail .divisionByZero) ∧
    (y ≠ 0 → gfDiv f x y = .ok (if x = 0 then 0 else f.exp.getD (f.log.getD x 0 + f.n - f.log.getD y 0) 0))

/-- R116: GF_EXP reads EXP[OPA] for OPA below 2n, else fails with OPERAND_RANGE. -/
def Obligations.GfExpResult : Prop :=
  ∀ s : State, s.configured = true →
    (2 * s.cfg.n ≤ s.opA.toNat → exec .gfExp s = .next (s.finish .operandRange)) ∧
    (s.opA.toNat < 2 * s.cfg.n →
      exec .gfExp s = .next (({ s with result := zext32 (s.exp.getD s.opA.toNat 0) } : State).finish .ok))

/-- R117: GF_LOG fails with INVALID_SYMBOL for OPA >= q, then with OPERAND_RANGE for OPA = 0, and else reads
LOG[OPA]; the result is below n under a primitive constant. -/
def Obligations.GfLogResult : Prop :=
  ∀ s : State, s.configured = true →
    (s.cfg.q ≤ s.opA.toNat → exec .gfLog s = .next (s.finish .invalidSymbol)) ∧
    (s.opA.toNat < s.cfg.q → s.opA.toNat = 0 → exec .gfLog s = .next (s.finish .operandRange)) ∧
    (s.opA.toNat < s.cfg.q → s.opA.toNat ≠ 0 →
      exec .gfLog s = .next (({ s with result := zext32 (s.log.getD s.opA.toNat 0) } : State).finish .ok)) ∧
    (s.Inv → Primitive s.cfg.n s.cfg.q s.cfg.prim → s.opA.toNat < s.cfg.q → s.opA.toNat ≠ 0 →
      ∃ t, exec .gfLog s = .next t ∧ t.result.toNat < s.cfg.n)

/-- R111: the operand reads.  A scalar is a symbol if its 32 bits are below q.  A range of symbols, or of
positions, is read in index order; it gives every entry's low 16 bits if all are written and in range, and
else ends at the lowest offending index, with the model fault, INVALID_SYMBOL or OPERAND_RANGE.  An IN entry
gives its tag and SYM.  For L or i above the buffer's depth, where there is no such entry, what is read is the model's
choice (log 25). -/
def Obligations.OperandReads : Prop :=
  ∀ (s : State) (b : Buf) (L limit i : Nat) (r : Word),
    (s.cfg.q ≤ r.toNat → scalarSym s r = .error (.fail .invalidSymbol)) ∧
    (r.toNat < s.cfg.q → scalarSym s r = .ok r.toNat) ∧
    (s.SymsReady b L → readSyms s b L = .ok (s.symsOf b L)) ∧
    (s.UnwrittenAt b L i → readSyms s b L = .error (.fault (.unwrittenRead b i))) ∧
    (s.InvalidAt b L i → readSyms s b L = .error (.fail .invalidSymbol)) ∧
    (s.PositionsReady b L limit → readPositions s limit b L = .ok (s.symsOf b L)) ∧
    (s.PosUnwrittenAt b L limit i → readPositions s limit b L = .error (.fault (.unwrittenRead b i))) ∧
    (s.PosBadAt b L limit i → readPositions s limit b L = .error (.fail .operandRange)) ∧
    (∀ w, s.mem.entry? .inp i = some w → readIn s i = .ok (w.getLsbD 31, (w.extractLsb' 0 16).toNat)) ∧
    (s.mem.entry? .inp i = none → readIn s i = .error (.fault (.unwrittenRead .inp i)))

/-! ### Polynomial unit -/

/-- R144, R149: POLY_SCALE checks LEN_A, PA, then OPA, and else writes PA scaled by OPA to PR and LEN_R. -/
def Obligations.PolyScaleResult : Prop :=
  ∀ s : State, s.configured = true →
    let L := s.lenA.toNat
    (L = 0 ∨ 65536 < L → exec .polyScale s = .next (s.finish .operandRange)) ∧
    (1 ≤ L → L ≤ 65536 →
      (∀ i, s.UnwrittenAt .pa L i → exec .polyScale s = .fault (.unwrittenRead .pa i)) ∧
      (∀ i, s.InvalidAt .pa L i → exec .polyScale s = .next (s.finish .invalidSymbol)) ∧
      (s.SymsReady .pa L → s.cfg.q ≤ s.opA.toNat → exec .polyScale s = .next (s.finish .invalidSymbol)) ∧
      (s.SymsReady .pa L → s.opA.toNat < s.cfg.q →
        exec .polyScale s = .next (({ s with
          mem := s.mem.store .pr ((s.symsOf .pa L).map fun c => gfMul s.field c s.opA.toNat)
          lenR := s.lenA } : State).finish .ok)))

/-- R145, R149, R141: POLY_ADD checks LEN_A, LEN_B, PA, then PB, and else writes the right-aligned XOR to PR
and max(LEN_A, LEN_B) to LEN_R; `polyAdd` is that XOR, also for values that are not symbols, the model's choice
(log 23). -/
def Obligations.PolyAddResult : Prop :=
  (∀ s : State, s.configured = true →
    let la := s.lenA.toNat
    let lb := s.lenB.toNat
    (la = 0 ∨ 65536 < la ∨ lb = 0 ∨ 65536 < lb → exec .polyAdd s = .next (s.finish .operandRange)) ∧
    (1 ≤ la → la ≤ 65536 → 1 ≤ lb → lb ≤ 65536 →
      (∀ i, s.UnwrittenAt .pa la i → exec .polyAdd s = .fault (.unwrittenRead .pa i)) ∧
      (∀ i, s.InvalidAt .pa la i → exec .polyAdd s = .next (s.finish .invalidSymbol)) ∧
      (∀ i, s.SymsReady .pa la → s.UnwrittenAt .pb lb i → exec .polyAdd s = .fault (.unwrittenRead .pb i)) ∧
      (∀ i, s.SymsReady .pa la → s.InvalidAt .pb lb i → exec .polyAdd s = .next (s.finish .invalidSymbol)) ∧
      (s.SymsReady .pa la → s.SymsReady .pb lb →
        ∃ out : List Nat, out.length = max la lb ∧
          (∀ i < max la lb, out.getD i 0 =
            (if max la lb - la ≤ i then s.symAt .pa (i - (max la lb - la)) else 0) ^^^
            (if max la lb - lb ≤ i then s.symAt .pb (i - (max la lb - lb)) else 0)) ∧
          exec .polyAdd s = .next (({ s with
            mem := s.mem.store .pr out, lenR := zext32 (max la lb) } : State).finish .ok)))) ∧
  ∀ p r : List Nat,
    let L := max p.length r.length
    (polyAdd p r).length = L ∧
    ∀ i < L, (polyAdd p r).getD i 0 =
      (if L - p.length ≤ i then p.getD (i - (L - p.length)) 0 else 0) ^^^
      (if L - r.length ≤ i then r.getD (i - (L - r.length)) 0 else 0)

/-- R146, R149, R142: POLY_MUL checks LEN_A, LEN_B, PA, then PB, and else writes the convolution to PR and
LEN_A + LEN_B - 1 to LEN_R: coefficient k is the XOR of the products of the coefficients i of PA and j of PB
with i + j = k; `polyMul` is that convolution, also for values that are not symbols, the model's choice (log 23). -/
def Obligations.PolyMulResult : Prop :=
  (∀ s : State, s.configured = true →
    let la := s.lenA.toNat
    let lb := s.lenB.toNat
    (la = 0 ∨ 65536 < la ∨ lb = 0 ∨ 65536 < lb → exec .polyMul s = .next (s.finish .operandRange)) ∧
    (1 ≤ la → la ≤ 65536 → 1 ≤ lb → lb ≤ 65536 →
      (∀ i, s.UnwrittenAt .pa la i → exec .polyMul s = .fault (.unwrittenRead .pa i)) ∧
      (∀ i, s.InvalidAt .pa la i → exec .polyMul s = .next (s.finish .invalidSymbol)) ∧
      (∀ i, s.SymsReady .pa la → s.UnwrittenAt .pb lb i → exec .polyMul s = .fault (.unwrittenRead .pb i)) ∧
      (∀ i, s.SymsReady .pa la → s.InvalidAt .pb lb i → exec .polyMul s = .next (s.finish .invalidSymbol)) ∧
      (s.SymsReady .pa la → s.SymsReady .pb lb →
        ∃ out : List Nat, out.length = la + lb - 1 ∧
          (∀ k < la + lb - 1, out.getD k 0 =
            ((List.range lb).map fun j =>
              if j ≤ k ∧ k - j < la then gfMul s.field (s.symAt .pa (k - j)) (s.symAt .pb j) else 0).foldl
                (fun a b => a ^^^ b) 0) ∧
          exec .polyMul s = .next (({ s with
            mem := s.mem.store .pr out, lenR := zext32 (la + lb - 1) } : State).finish .ok)))) ∧
  ∀ (f : Field) (p r : List Nat), p ≠ [] → r ≠ [] →
    (polyMul f p r).length = p.length + r.length - 1 ∧
    ∀ k < p.length + r.length - 1, (polyMul f p r).getD k 0 =
      ((List.range r.length).map fun j =>
        if j ≤ k ∧ k - j < p.length then gfMul f (p.getD (k - j) 0) (r.getD j 0) else 0).foldl
          (fun a b => a ^^^ b) 0

/-- R147, R149, R143: POLY_EVAL checks LEN_A, PA, then OPA, and else writes the Horner value of PA at OPA
to RESULT; `polyEval` is that value, also for values that are not symbols, the model's choice (log 23). -/
def Obligations.PolyEvalResult : Prop :=
  (∀ s : State, s.configured = true →
    let L := s.lenA.toNat
    (L = 0 ∨ 65536 < L → exec .polyEval s = .next (s.finish .operandRange)) ∧
    (1 ≤ L → L ≤ 65536 →
      (∀ i, s.UnwrittenAt .pa L i → exec .polyEval s = .fault (.unwrittenRead .pa i)) ∧
      (∀ i, s.InvalidAt .pa L i → exec .polyEval s = .next (s.finish .invalidSymbol)) ∧
      (s.SymsReady .pa L → s.cfg.q ≤ s.opA.toNat → exec .polyEval s = .next (s.finish .invalidSymbol)) ∧
      (s.SymsReady .pa L → s.opA.toNat < s.cfg.q →
        exec .polyEval s = .next (({ s with result := zext32 (
          ((List.range (L - 1)).map fun i => s.symAt .pa (i + 1)).foldl
            (fun y c => gfMul s.field y s.opA.toNat ^^^ c) (s.symAt .pa 0)) } : State).finish .ok)))) ∧
  ∀ (f : Field) (c : Nat) (cs : List Nat) (x : Nat),
    polyEval f [c] x = c ∧
    ∀ d, polyEval f (c :: cs ++ [d]) x = gfMul f (polyEval f (c :: cs) x) x ^^^ d

/-- R148, which the spec marks as its own inference (derived from R140 to R143 and R121): the laws of the
polynomial functions, for a primitive constant of degree m and nonempty sequences
of symbols below q. -/
def Obligations.PolynomialLaws : Prop :=
  ∀ m prim : Nat, 2 ≤ m → m ≤ 16 → 2 ^ m ≤ prim → prim < 2 ^ (m + 1) → Primitive (2 ^ m - 1) (2 ^ m) prim →
    let q := 2 ^ m
    let f : Field := { n := q - 1, exp := expTable (q - 1) q prim, log := logTable (q - 1) q prim }
    let Syms := fun p : List Nat => 1 ≤ p.length ∧ ∀ c ∈ p, c < q
    ∀ p r s : List Nat, Syms p → Syms r → Syms s → ∀ x y L : Nat, x < q → y < q →
      polyAdd p r = polyAdd r p ∧ polyAdd (polyAdd p r) s = polyAdd p (polyAdd r s) ∧
      polyAdd p p = List.replicate p.length 0 ∧
      polyMul f p r = polyMul f r p ∧ polyMul f (polyMul f p r) s = polyMul f p (polyMul f r s) ∧
      polyEval f (polyMul f p r) x = gfMul f (polyEval f p x) (polyEval f r x) ∧
      polyEval f (polyAdd p r) x = polyEval f p x ^^^ polyEval f r x ∧
      polyEval f (polyScale f p y) x = gfMul f y (polyEval f p x) ∧
      polyEval f (List.replicate L 0 ++ p) x = polyEval f p x ∧
      (polyMul f p r).length = p.length + r.length - 1 ∧
      (polyAdd p r).length = max p.length r.length

/-! ### Encoder -/

/-- R161, R160: GEN_POLY writes the generator of nsym roots to GEN and nsym + 1 to LEN_GEN; the generator is
[1] times [1, EXP[i]] for i = 0, 1, ..., nsym - 1, of length nsym + 1.  For an index past EXP the 0 read there is the
model's choice (logs 2, 23). -/
def Obligations.GenPolyResult : Prop :=
  (∀ s : State, s.configured = true →
    exec .genPoly s = .next (({ s with
      mem := s.mem.store .gen (generator s.field s.cfg.nsym)
      lenGen := zext32 (s.cfg.nsym + 1) } : State).finish .ok)) ∧
  (∀ f : Field, generator f 0 = [1] ∧
    ∀ t, generator f (t + 1) = polyMul f (generator f t) [1, f.expAt t] ∧ (generator f t).length = t + 1)

/-- R163: ENCODE fails with INPUT_TOO_LONG when LEN_IN + nsym > n, then with INVALID_SYMBOL at the lowest
erased or out-of-range entry of IN, and else writes the generator to GEN and the codeword to OUT. -/
def Obligations.EncodeResult : Prop :=
  ∀ s : State, s.configured = true →
    let L := s.lenIn.toNat
    let nsym := s.cfg.nsym
    (s.cfg.n < L + nsym → exec .encode s = .next (s.finish .inputTooLong)) ∧
    (L + nsym ≤ s.cfg.n →
      (∀ i, i < L → s.MessageReady i → s.mem.entry? .inp i = none →
        exec .encode s = .fault (.unwrittenRead .inp i)) ∧
      (∀ i, s.MessageBadAt L i → exec .encode s = .next (s.finish .invalidSymbol)) ∧
      (s.MessageReady L →
        exec .encode s = .next (({ s with
          mem := (s.mem.store .gen (generator s.field nsym)).store .out
            (encodeBlock s.field nsym (s.symsOf .inp L))
          lenGen := zext32 (nsym + 1)
          lenOut := zext32 (L + nsym) } : State).finish .ok)))

/-- R164, items 1 and 2, which the spec marks as its own inference, R160 and R162: the codeword begins with the message
and is nsym longer; the generator's leading coefficient is 1 wherever the tables give 1 * 1 = 1.  The division of R162
is spelled out: the buffer starts as the message and nsym zeros; round i takes the working entry i as coef and, if that
is nonzero, XORs g[j] * coef into entry i + j for j = 0 to nsym; the parity is what stands after the message at the end.
For arguments outside R162's and R160's bounds and symbols this is about the model's own choice (log 23). -/
def Obligations.EncoderSystematic : Prop :=
  ∀ (f : Field) (nsym : Nat) (msg : List Nat),
    (encodeBlock f nsym msg).take msg.length = msg ∧
    (encodeBlock f nsym msg).length = msg.length + nsym ∧
    (gfMul f 1 1 = 1 → (generator f nsym).getD 0 0 = 1) ∧
    ∃ r : Nat → List Nat,
      r 0 = msg ++ List.replicate nsym 0 ∧
      encodeBlock f nsym msg = msg ++ (r msg.length).drop msg.length ∧
      ∀ i < msg.length,
        let coef := (r i).getD i 0
        (coef = 0 → r (i + 1) = r i) ∧
        (coef ≠ 0 → (r (i + 1)).length = msg.length + nsym ∧
          ∀ k < msg.length + nsym, (r (i + 1)).getD k 0 =
            if i ≤ k ∧ k ≤ i + nsym then (r i).getD k 0 ^^^ gfMul f ((generator f nsym).getD (k - i) 0) coef
            else (r i).getD k 0)

/-- R164, item 3, and R186, item 1, both of which the spec marks as its own inference: every syndrome of an encoded block is 0. -/
def Obligations.EncodedBlockHasZeroSyndromes : Prop :=
  ∀ m prim : Nat, 2 ≤ m → m ≤ 16 → 2 ^ m ≤ prim → prim < 2 ^ (m + 1) → Primitive (2 ^ m - 1) (2 ^ m) prim →
    let q := 2 ^ m
    let f : Field := { n := q - 1, exp := expTable (q - 1) q prim, log := logTable (q - 1) q prim }
    ∀ (nsym : Nat) (msg : List Nat), msg.length + nsym ≤ q - 1 → (∀ v ∈ msg, v < q) →
      syndromes f nsym (encodeBlock f nsym msg) = List.replicate nsym 0

/-! ### Decoder front end -/

/-- R180: LOAD fails with INPUT_TOO_LONG when LEN_IN > n, then with INVALID_SYMBOL at the lowest symbol of q
or more that is not erased, then with TOO_MANY_ERASURES, and else writes the working codeword and the erased
positions. -/
def Obligations.LoadResult : Prop :=
  ∀ s : State, s.configured = true →
    let L := s.lenIn.toNat
    let era := (List.range L).filter fun i => s.erasedAt i
    (s.cfg.n < L → exec .load s = .next (s.finish .inputTooLong)) ∧
    (L ≤ s.cfg.n →
      (∀ i, i < L → s.ReceivedReady i → s.mem.entry? .inp i = none →
        exec .load s = .fault (.unwrittenRead .inp i)) ∧
      (∀ i, s.ReceivedBadAt L i → exec .load s = .next (s.finish .invalidSymbol)) ∧
      (s.ReceivedReady L → s.cfg.nsym < era.length → exec .load s = .next (s.finish .tooManyErasures)) ∧
      (s.ReceivedReady L → era.length ≤ s.cfg.nsym →
        exec .load s = .next (({ s with
          mem := (s.mem.store .work
            ((List.range L).map fun i => if s.erasedAt i then 0 else s.symAt .inp i)).store .era era
          lenWork := s.lenIn
          numEra := zext32 era.length } : State).finish .ok)))

/-- R183, R182: SYNDROME fails with INPUT_TOO_LONG when LEN_WORK > n, then with INVALID_SYMBOL, and else
writes the value of WORK at EXP[0], ..., EXP[nsym - 1] to SYN; an empty WORK gives zeros (R181). -/
def Obligations.SyndromeResult : Prop :=
  ∀ s : State, s.configured = true →
    let L := s.lenWork.toNat
    (s.cfg.n < L → exec .syndrome s = .next (s.finish .inputTooLong)) ∧
    (L ≤ s.cfg.n →
      (∀ i, s.UnwrittenAt .work L i → exec .syndrome s = .fault (.unwrittenRead .work i)) ∧
      (∀ i, s.InvalidAt .work L i → exec .syndrome s = .next (s.finish .invalidSymbol)) ∧
      (s.SymsReady .work L →
        exec .syndrome s = .next (({ s with
          mem := s.mem.store .syn ((List.range s.cfg.nsym).map fun i =>
            if L = 0 then 0 else polyEval s.field (s.symsOf .work L) (s.exp.getD i 0))
          lenSyn := zext32 s.cfg.nsym } : State).finish .ok)))

/-- R185, R184: FORNEY_SYN's checks in order, and else FSYN holds SYN with every listed erasure folded out.
The fold is spelled out: entry j of one step is f[j] * X(pos) XOR f[j + 1], the last entry dropped.  The fold's
clauses hold for every list: for more erasures than syndromes or a position not below nmess, which R184 gives no
value and no command reaches, they state the model's own choice (log 23). -/
def Obligations.ForneySynResult : Prop :=
  (∀ s : State, s.configured = true →
    let nmess := s.lenWork.toNat
    let Ls := s.lenSyn.toNat
    let e := s.numEra.toNat
    (s.cfg.n < nmess → exec .forneySyn s = .next (s.finish .inputTooLong)) ∧
    (nmess ≤ s.cfg.n → 65536 < Ls → exec .forneySyn s = .next (s.finish .operandRange)) ∧
    (nmess ≤ s.cfg.n → Ls ≤ 65536 → Ls < e → exec .forneySyn s = .next (s.finish .tooManyErasures)) ∧
    (nmess ≤ s.cfg.n → Ls ≤ 65536 → e ≤ Ls →
      (∀ i, s.UnwrittenAt .syn Ls i → exec .forneySyn s = .fault (.unwrittenRead .syn i)) ∧
      (∀ i, s.InvalidAt .syn Ls i → exec .forneySyn s = .next (s.finish .invalidSymbol)) ∧
      (∀ i, s.SymsReady .syn Ls → s.PosUnwrittenAt .era e nmess i →
        exec .forneySyn s = .fault (.unwrittenRead .era i)) ∧
      (∀ i, s.SymsReady .syn Ls → s.PosBadAt .era e nmess i →
        exec .forneySyn s = .next (s.finish .operandRange)) ∧
      (s.SymsReady .syn Ls → s.PositionsReady .era e nmess →
        exec .forneySyn s = .next (({ s with
          mem := s.mem.store .fsyn (forney s.field (s.symsOf .syn Ls) (s.symsOf .era e) nmess)
          lenFsyn := zext32 (Ls - e) } : State).finish .ok)))) ∧
  (∀ (f : Field) (S era : List Nat) (p nmess : Nat),
    forney f S [] nmess = S ∧
    (forney f S era nmess).length = S.length - era.length ∧
    ∃ g : List Nat, forney f S (p :: era) nmess = forney f g era nmess ∧ g.length = S.length - 1 ∧
      ∀ j < S.length - 1, g.getD j 0 = gfMul f (S.getD j 0) (f.expAt (nmess - 1 - p)) ^^^ S.getD (j + 1) 0)

/-- R186, item 4, which the spec marks as its own inference: the result of the Forney transform does not depend on the order of the
erasures.  For more erasures than syndromes, which R184 gives no value, this is about the model's own choice (log 23). -/
def Obligations.ForneyOrderIndependent : Prop :=
  ∀ m prim : Nat, 2 ≤ m → m ≤ 16 → 2 ^ m ≤ prim → prim < 2 ^ (m + 1) → Primitive (2 ^ m - 1) (2 ^ m) prim →
    let q := 2 ^ m
    let f : Field := { n := q - 1, exp := expTable (q - 1) q prim, log := logTable (q - 1) q prim }
    ∀ (S era era' : List Nat) (nmess : Nat), (∀ v ∈ S, v < q) → nmess ≤ q - 1 →
      (∀ p ∈ era, p < nmess) → era.Perm era' → forney f S era nmess = forney f S era' nmess

/-! ### Locator and root search -/

/-- R201: BM's checks in order, the last TOO_MANY_ERRORS when twice the located errors exceeds LEN_FSYN, and
else LOC and LEN_LOC hold the locator of FSYN; LEN_FSYN = 0 gives [1].  The locator is spelled out (R200): the
rounds start from err = old = [1]; round i extends old by 0 and computes the discrepancy; it leaves err alone
when that is 0, folds old in when old is no longer than err, and else rescales and swaps first.  For sequences outside R200's symbols
and tables other than R113's, the truncated index and the 0 past a table are the model's choice (logs 2, 23). -/
def Obligations.BmResult : Prop :=
  (∀ s : State, s.configured = true →
    let L := s.lenFsyn.toNat
    let err := bmLocator s.field (s.symsOf .fsyn L)
    (65536 < L → exec .bm s = .next (s.finish .operandRange)) ∧
    (L ≤ 65536 →
      (∀ i, s.UnwrittenAt .fsyn L i → exec .bm s = .fault (.unwrittenRead .fsyn i)) ∧
      (∀ i, s.InvalidAt .fsyn L i → exec .bm s = .next (s.finish .invalidSymbol)) ∧
      (s.SymsReady .fsyn L → L < 2 * (err.length - 1) → exec .bm s = .next (s.finish .tooManyErrors)) ∧
      (s.SymsReady .fsyn L → 2 * (err.length - 1) ≤ L →
        exec .bm s = .next (({ s with
          mem := s.mem.store .loc err, lenLoc := zext32 err.length } : State).finish .ok)))) ∧
  (∀ f : Field, bmLocator f [] = [1]) ∧
  ∀ (f : Field) (S : List Nat), ∃ r : Nat → List Nat × List Nat,
    r 0 = ([1], [1]) ∧ bmLocator f S = (r S.length).1 ∧
    ∀ i < S.length,
      let err := (r i).1
      let old := (r i).2 ++ [0]
      let delta := ((List.range (err.length - 1)).map fun j =>
        gfMul f (err.getD (err.length - 2 - j) 0) (S.getD (i - (j + 1)) 0)).foldl (fun a b => a ^^^ b) (S.getD i 0)
      let inv := f.exp.getD (f.log.getD 1 0 + f.n - f.log.getD delta 0) 0
      let scaled := fun (p : List Nat) (x : Nat) => p.map fun c => gfMul f c x
      (delta = 0 → r (i + 1) = (err, old)) ∧
      (delta ≠ 0 → old.length ≤ err.length → r (i + 1) = (polyAdd err (scaled old delta), old)) ∧
      (delta ≠ 0 → err.length < old.length →
        r (i + 1) = (polyAdd (scaled old delta) (scaled (scaled err inv) delta), scaled err inv))

/-- R202, which the spec marks as its own inference: the Berlekamp-Massey invariants.  After i rounds err has at most i + 1 entries, so every index of
the discrepancy is in range; the locator has at most len(S) + 1 entries; and under a primitive constant the
last coefficient of err is 1 after every round. -/
def Obligations.BmInvariants : Prop :=
  ∀ (f : Field) (S : List Nat),
    (∀ i, (repeatUp 0 i ([1], [1]) (bmRound f S)).1.length ≤ i + 1) ∧
    (bmLocator f S).length ≤ S.length + 1 ∧
    ∀ m prim : Nat, 2 ≤ m → m ≤ 16 → 2 ^ m ≤ prim → prim < 2 ^ (m + 1) →
      Primitive (2 ^ m - 1) (2 ^ m) prim →
      f = { n := 2 ^ m - 1, exp := expTable (2 ^ m - 1) (2 ^ m) prim, log := logTable (2 ^ m - 1) (2 ^ m) prim } →
      (∀ v ∈ S, v < 2 ^ m) →
      ∀ i ≤ S.length, (repeatUp 0 i ([1], [1]) (bmRound f S)).1.getLast? = some 1

/-- R204, R203: CHIEN's checks in order, the last ERROR_LOCATION_FAILURE when the root count differs from
LEN_LOC - 1, and else ERRPOS holds the positions nmess - 1 - i of the roots EXP[n - i], in scan order.  That is the
pseudocode; where R204's corner bullet says that a leading zero fails, an all-zero LOC with LEN_WORK = LEN_LOC - 1
completes with OK, the model's choice (log 26). -/
def Obligations.ChienResult : Prop :=
  ∀ s : State, s.configured = true →
    let Ll := s.lenLoc.toNat
    let nmess := s.lenWork.toNat
    let pos := ((List.range nmess).filter fun i =>
      polyEval s.field (s.symsOf .loc Ll) (s.exp.getD (s.cfg.n - i) 0) == 0).map fun i => nmess - 1 - i
    (Ll = 0 ∨ 65536 < Ll → exec .chien s = .next (s.finish .operandRange)) ∧
    (1 ≤ Ll → Ll ≤ 65536 → s.cfg.n < nmess → exec .chien s = .next (s.finish .inputTooLong)) ∧
    (1 ≤ Ll → Ll ≤ 65536 → nmess ≤ s.cfg.n →
      (∀ i, s.UnwrittenAt .loc Ll i → exec .chien s = .fault (.unwrittenRead .loc i)) ∧
      (∀ i, s.InvalidAt .loc Ll i → exec .chien s = .next (s.finish .invalidSymbol)) ∧
      (s.SymsReady .loc Ll → pos.length ≠ Ll - 1 →
        exec .chien s = .next (s.finish .errorLocationFailure)) ∧
      (s.SymsReady .loc Ll → pos.length = Ll - 1 →
        exec .chien s = .next (({ s with
          mem := s.mem.store .errpos pos, numErrpos := zext32 pos.length } : State).finish .ok)))

/-! ### Correction, verification, decode -/

/-- R222, R220, R221: CORRECT's checks in order; E = 0 completes and changes nothing; a zero denominator
fails with DIVISION_BY_ZERO; else every listed position's symbol is XORed with its magnitude.  The locator, the
evaluator, the derivative (R220) and the XOR of the magnitudes are spelled out.  For arguments outside what R220
to R222 require, which no command reaches, those clauses state the model's own choice (logs 21, 23). -/
def Obligations.CorrectResult : Prop :=
  (∀ s : State, s.configured = true →
    let nmess := s.lenWork.toNat
    let Ls := s.lenSyn.toNat
    let ne := s.numEra.toNat
    let nr := s.numErrpos.toNat
    let E := ne + nr
    let pos := s.symsOf .era ne ++ s.symsOf .errpos nr
    let lam := errataLocator s.field pos nmess
    let om := errataEvaluator s.field E (s.symsOf .syn E) lam
    let der := errataDerivative lam
    let xInv := fun p => s.exp.getD (p + s.cfg.n + 1 - nmess) 0
    let den := fun p => gfMul s.field (xInv p) (polyEval s.field der (gfMul s.field (xInv p) (xInv p)))
    let quot := fun y z => if y = 0 then 0 else s.exp.getD (s.log.getD y 0 + s.cfg.n - s.log.getD z 0) 0
    (s.cfg.n < nmess → exec .correct s = .next (s.finish .inputTooLong)) ∧
    (nmess ≤ s.cfg.n → 65536 < Ls ∨ 65536 < ne ∨ 65536 < nr →
      exec .correct s = .next (s.finish .operandRange)) ∧
    (nmess ≤ s.cfg.n → Ls ≤ 65536 → E = 0 → exec .correct s = .next (s.finish .ok)) ∧
    (nmess ≤ s.cfg.n → Ls ≤ 65536 → ne ≤ 65536 → nr ≤ 65536 → E ≠ 0 →
      (Ls < E → exec .correct s = .next (s.finish .operandRange)) ∧
      (E ≤ Ls →
        (∀ i, s.UnwrittenAt .work nmess i → exec .correct s = .fault (.unwrittenRead .work i)) ∧
        (∀ i, s.InvalidAt .work nmess i → exec .correct s = .next (s.finish .invalidSymbol)) ∧
        (s.SymsReady .work nmess →
          (∀ i, s.UnwrittenAt .syn E i → exec .correct s = .fault (.unwrittenRead .syn i)) ∧
          (∀ i, s.InvalidAt .syn E i → exec .correct s = .next (s.finish .invalidSymbol)) ∧
          (s.SymsReady .syn E →
            (∀ i, s.PosUnwrittenAt .era ne nmess i → exec .correct s = .fault (.unwrittenRead .era i)) ∧
            (∀ i, s.PosBadAt .era ne nmess i → exec .correct s = .next (s.finish .operandRange)) ∧
            (s.PositionsReady .era ne nmess →
              (∀ i, s.PosUnwrittenAt .errpos nr nmess i → exec .correct s = .fault (.unwrittenRead .errpos i)) ∧
              (∀ i, s.PosBadAt .errpos nr nmess i → exec .correct s = .next (s.finish .operandRange)) ∧
              (s.PositionsReady .errpos nr nmess →
                ((∃ p ∈ pos, den p = 0) → exec .correct s = .next (s.finish .divisionByZero)) ∧
                ((∀ p ∈ pos, den p ≠ 0) →
                  exec .correct s = .next (({ s with
                    mem := s.mem.store .work (applyErrata (s.symsOf .work nmess) pos
                      (pos.map fun p => quot (polyEval s.field om (xInv p)) (den p)))
                    } : State).finish .ok))))))))) ∧
  ∀ (f : Field) (pos S lam w vs : List Nat) (nmess E p v : Nat),
    let o := polyMul f (S.take E).reverse lam
    errataLocator f [] nmess = [1] ∧
    errataLocator f (pos ++ [p]) nmess = polyMul f (errataLocator f pos nmess) [f.exp.getD (nmess - 1 - p) 0, 1] ∧
    errataEvaluator f E S lam = o.drop (o.length - E) ∧
    (errataDerivative lam).length = lam.length / 2 ∧
    (∀ j < lam.length / 2, (errataDerivative lam).getD j 0 = lam.getD (2 * j + lam.length % 2) 0) ∧
    applyErrata w [] [] = w ∧
    applyErrata w (p :: pos) (v :: vs) = applyErrata (w.set p (w.getD p 0 ^^^ v)) pos vs

/-- R223: VERIFY fails with INPUT_TOO_LONG, INVALID_SYMBOL, then CORRECTION_VERIFICATION_FAILURE when a
recomputed syndrome is nonzero, and else OUT holds WORK less its last nsym symbols. -/
def Obligations.VerifyResult : Prop :=
  ∀ s : State, s.configured = true →
    let nmess := s.lenWork.toNat
    let S := syndromes s.field s.cfg.nsym (s.symsOf .work nmess)
    (s.cfg.n < nmess → exec .verify s = .next (s.finish .inputTooLong)) ∧
    (nmess ≤ s.cfg.n →
      (∀ i, s.UnwrittenAt .work nmess i → exec .verify s = .fault (.unwrittenRead .work i)) ∧
      (∀ i, s.InvalidAt .work nmess i → exec .verify s = .next (s.finish .invalidSymbol)) ∧
      (s.SymsReady .work nmess → (∃ v ∈ S, v ≠ 0) →
        exec .verify s = .next (s.finish .correctionVerificationFailure)) ∧
      (s.SymsReady .work nmess → (∀ v ∈ S, v = 0) →
        exec .verify s = .next (({ s with
          mem := s.mem.store .out (s.symsOf .work (nmess - s.cfg.nsym))
          lenOut := zext32 (nmess - s.cfg.nsym) } : State).finish .ok)))

/-- R231, which the spec marks as its own inference (derived from R223 and R230); the reads of SYN and WORK are
unchecked (log 19): with all syndromes zero DECODE completes with OK after LOAD and SYNDROME; OUT holds WORK less its
last nsym symbols, and FSYN, LOC, ERRPOS and their lengths keep what they held. -/
def Obligations.DecodeShortCircuit : Prop :=
  ∀ s : State, s.Inv → s.configured = true →
    let L := s.lenIn.toNat
    let era := (List.range L).filter fun i => s.erasedAt i
    let w := (List.range L).map fun i => if s.erasedAt i then 0 else s.symAt .inp i
    L ≤ s.cfg.n → s.ReceivedReady L → era.length ≤ s.cfg.nsym →
    (∀ v ∈ syndromes s.field s.cfg.nsym w, v = 0) →
    exec .decode s = .next (({ s with
      mem := (((s.mem.store .work w).store .era era).store .syn (List.replicate s.cfg.nsym 0)).store .out
        (w.take (L - s.cfg.nsym))
      lenWork := s.lenIn
      numEra := zext32 era.length
      lenSyn := zext32 s.cfg.nsym
      lenOut := zext32 (L - s.cfg.nsym) } : State).finish .ok)

/-- R230, R232, R262: DECODE is its stages run one after another as commands: it stops at the first that
fails, with its code and the earlier stages' writes kept, and when every SYN entry below nsym is 0 it copies
WORK less its parity to OUT instead of running the stages after SYNDROME.  That test and that copy read the
entries unchecked (log 19). -/
def Obligations.DecodeIsItsStages : Prop :=
  ∀ s : State,
    exec .decode s =
      andThen (exec .load s) fun s =>
      andThen (exec .syndrome s) fun s =>
        if ∀ i < s.cfg.nsym, s.symAt .syn i = 0 then
          let L := s.lenWork.toNat - s.cfg.nsym
          .next (({ s with mem := s.mem.store .out (s.symsOf .work L), lenOut := zext32 L } : State).finish .ok)
        else
          andThen (exec .forneySyn s) fun s =>
          andThen (exec .bm s) fun s =>
          andThen (exec .chien s) fun s =>
          andThen (exec .correct s) fun s =>
          exec .verify s

/-- R233, item 1, which the spec marks as derived, checked and not proved: decoding an encoded block gives the
message back.  `t` is the state ENCODE leaves; `u` is
any state of the same configuration whose IN holds `t`'s OUT. -/
def Obligations.CleanBlockRoundTrip : Prop :=
  ∀ s t u : State, s.Inv → s.configured = true → Primitive s.cfg.n s.cfg.q s.cfg.prim →
    s.lenIn.toNat + s.cfg.nsym ≤ s.cfg.n → s.MessageReady s.lenIn.toNat →
    exec .encode s = .next t →
    u.Inv → u.configured = true → u.params = s.params → u.cfg = s.cfg → u.lenIn = t.lenOut →
    (∀ i < t.lenOut.toNat, u.mem.entry? .inp i = t.mem.entry? .out i) →
    ∃ v, exec .decode u = .next v ∧ v.code = .ok ∧ v.lenOut = s.lenIn ∧
      v.symsOf .out s.lenIn.toNat = s.symsOf .inp s.lenIn.toNat

/-- R233, item 2, which the spec marks as derived, checked and not proved: the combined bound.  `t` is the state
ENCODE leaves; `u` is any state of the same configuration whose IN holds `t`'s OUT with e entries erased and v
others changed to other symbols; if 2v + e is at most nsym, DECODE gives the message back. -/
def Obligations.DecodesWithinTheBound : Prop :=
  ∀ s t u : State, s.Inv → s.configured = true → Primitive s.cfg.n s.cfg.q s.cfg.prim →
    s.lenIn.toNat + s.cfg.nsym ≤ s.cfg.n → s.MessageReady s.lenIn.toNat →
    exec .encode s = .next t →
    u.Inv → u.configured = true → u.params = s.params → u.cfg = s.cfg → u.lenIn = t.lenOut →
    u.ReceivedReady t.lenOut.toNat →
    let erased := (List.range t.lenOut.toNat).filter fun i => u.erasedAt i
    let changed := (List.range t.lenOut.toNat).filter fun i => !u.erasedAt i && u.symAt .inp i != t.symAt .out i
    2 * changed.length + erased.length ≤ s.cfg.nsym →
    ∃ v, exec .decode u = .next v ∧ v.code = .ok ∧ v.lenOut = s.lenIn ∧
      v.symsOf .out s.lenIn.toNat = s.symsOf .inp s.lenIn.toNat

/-! ### Whole-machine rules of the commands -/

/-- R14, R15: a command other than DECODE that fails changes nothing but STATUS, and no command, DECODE among
them, writes a byte of IN. -/
def Obligations.FailedCommandChangesOnlyStatus : Prop :=
  (∀ (i : Instr) (s t : State), exec i s = .next t → i ≠ .decode → t.code ≠ .ok →
    t = { s with code := t.code, busy := false, done := true }) ∧
  (∀ (i : Instr) (s t : State), exec i s = .next t →
    ∀ a, InEntries .inp 65536 a → t.mem.read? a = s.mem.read? a)

/-- R251, which the spec marks as its own inference: the codes each configured command can complete with.  The premise is the machine's invariant
(StepKeepsInvariant). -/
def Obligations.FailureCodesOfEachCommand : Prop :=
  ∀ (i : Instr) (s t : State), s.Inv → s.configured = true → exec i s = .next t →
    t.code ∈ (.ok :: match i with
      | .nop | .genPoly => []
      | .configure => [.configurationError]
      | .gfMul => [.invalidSymbol]
      | .gfDiv => [.invalidSymbol, .divisionByZero]
      | .gfExp => [.operandRange]
      | .gfLog | .polyScale | .polyAdd | .polyMul | .polyEval => [.invalidSymbol, .operandRange]
      | .encode | .syndrome => [.inputTooLong, .invalidSymbol]
      | .load => [.inputTooLong, .invalidSymbol, .tooManyErasures]
      | .forneySyn => [.inputTooLong, .operandRange, .tooManyErasures, .invalidSymbol]
      | .bm => [.operandRange, .invalidSymbol, .tooManyErrors]
      | .chien => [.operandRange, .inputTooLong, .invalidSymbol, .errorLocationFailure]
      | .correct => [.inputTooLong, .operandRange, .invalidSymbol, .divisionByZero]
      | .verify => [.inputTooLong, .invalidSymbol, .correctionVerificationFailure]
      | .decode => [.inputTooLong, .invalidSymbol, .tooManyErasures, .tooManyErrors, .errorLocationFailure,
          .divisionByZero, .correctionVerificationFailure] : List StatusCode)

/-- R24: completion of any command clears BUSY, sets DONE and so raises IRQ if IE = 1 (R253); CONFIGURED
changes only by CONFIGURE, and OVR, IE, PENDING, the operand and staging registers and the surroundings by
no command. -/
def Obligations.CompletionReport : Prop :=
  ∀ (i : Instr) (s t : State), exec i s = .next t →
    t.busy = false ∧ t.done = true ∧ t.irq = s.ie ∧ (i ≠ .configure → t.configured = s.configured) ∧
    t.ovr = s.ovr ∧ t.ie = s.ie ∧ t.pending = s.pending ∧ t.opA = s.opA ∧ t.opB = s.opB ∧
    t.cfgN = s.cfgN ∧ t.cfgK = s.cfgK ∧ t.lenIn = s.lenIn ∧ t.lenA = s.lenA ∧ t.lenB = s.lenB ∧
    t.params = s.params ∧ t.rst = s.rst ∧ t.host = s.host ∧ t.reads = s.reads ∧ t.wait = s.wait ∧
    t.free = s.free

/-- R16: a step stops in exactly two ways: an engine read of an entry that is unwritten in the state before
the step, or the host's next move, a write, a read or a poll of 4 bytes, whose own address and size address
nothing; and no step is refused.  That memory unlisted is unwritten is log 7; the bus check before all else log 8. -/
def Obligations.OnlyTheTwoModelFaults : Prop :=
  ∀ s : State,
    (∀ f, step s = .fault f →
      (∃ b i, f = .unwrittenRead b i ∧ s.mem.entry? b i = none ∧ s.engineTurn = true) ∨
      (∃ a size op rest, f = .hostBusError a ∧ locate a size = none ∧ s.engineTurn = false ∧ s.host = op :: rest ∧
        ((∃ v, op = .write a size v) ∨ (∃ use, op = .read a size use) ∨
          (size = 4 ∧ ∃ mask val, op = .poll a mask val)))) ∧
    (∀ r, step s ≠ .refused r) ∧
    (∀ i r, exec i s ≠ .refused r)

/-! ### Frames -/

/-- Frame of the commands that write RESULT (R91): nothing else changes but STATUS, and no byte of memory. -/
def Obligations.ScalarCommandsFrame : Prop :=
  ∀ (i : Instr) (s t : State), i ∈ ([.gfMul, .gfDiv, .gfExp, .gfLog, .polyEval] : List Instr) →
    exec i s = .next t →
    t = { s with result := t.result, code := t.code, busy := false, done := true } ∧
    ∀ a, t.mem.read? a = s.mem.read? a

/-- Frame of POLY_SCALE, POLY_ADD and POLY_MUL (R91, R73): LEN_R, the entries of PR below the result's length,
and STATUS. -/
def Obligations.PolynomialCommandsFrame : Prop :=
  ∀ (i : Instr) (s t : State), i ∈ ([.polyScale, .polyAdd, .polyMul] : List Instr) → exec i s = .next t →
    t = { s with mem := t.mem, lenR := t.lenR, code := t.code, busy := false, done := true } ∧
    (i = .polyScale → ∀ a, ¬ InEntries .pr s.lenA.toNat a → t.mem.read? a = s.mem.read? a) ∧
    (i = .polyAdd → ∀ a, ¬ InEntries .pr (max s.lenA.toNat s.lenB.toNat) a → t.mem.read? a = s.mem.read? a) ∧
    (i = .polyMul → ∀ a, ¬ InEntries .pr (s.lenA.toNat + s.lenB.toNat - 1) a →
      t.mem.read? a = s.mem.read? a)

/-- Frame of GEN_POLY and ENCODE (R91, R73): GEN below nsym + 1 and LEN_GEN, for ENCODE also OUT below
LEN_IN + nsym and LEN_OUT, and STATUS. -/
def Obligations.EncoderCommandsFrame : Prop :=
  ∀ s t : State,
    (exec .genPoly s = .next t →
      t = { s with mem := t.mem, lenGen := t.lenGen, code := t.code, busy := false, done := true } ∧
      ∀ a, ¬ InEntries .gen (s.cfg.nsym + 1) a → t.mem.read? a = s.mem.read? a) ∧
    (exec .encode s = .next t →
      t = { s with mem := t.mem, lenGen := t.lenGen, lenOut := t.lenOut, code := t.code, busy := false,
                   done := true } ∧
      ∀ a, ¬ InEntries .gen (s.cfg.nsym + 1) a → ¬ InEntries .out (s.lenIn.toNat + s.cfg.nsym) a →
        t.mem.read? a = s.mem.read? a)

/-- Frame of the decode stages (R91, R73): each changes the entries and lengths its rule names, and STATUS. -/
def Obligations.StageCommandsFrame : Prop :=
  ∀ s t : State,
    (exec .load s = .next t →
      t = { s with mem := t.mem, lenWork := t.lenWork, numEra := t.numEra, code := t.code, busy := false,
                   done := true } ∧
      ∀ a, ¬ InEntries .work s.lenIn.toNat a →
        ¬ InEntries .era (erasuresFrom 0 (s.receivedOf s.lenIn.toNat)).length a →
        t.mem.read? a = s.mem.read? a) ∧
    (exec .syndrome s = .next t →
      t = { s with mem := t.mem, lenSyn := t.lenSyn, code := t.code, busy := false, done := true } ∧
      ∀ a, ¬ InEntries .syn s.cfg.nsym a → t.mem.read? a = s.mem.read? a) ∧
    (exec .forneySyn s = .next t →
      t = { s with mem := t.mem, lenFsyn := t.lenFsyn, code := t.code, busy := false, done := true } ∧
      ∀ a, ¬ InEntries .fsyn (s.lenSyn.toNat - s.numEra.toNat) a → t.mem.read? a = s.mem.read? a) ∧
    (exec .bm s = .next t →
      t = { s with mem := t.mem, lenLoc := t.lenLoc, code := t.code, busy := false, done := true } ∧
      ∀ a, ¬ InEntries .loc (bmLocator s.field (s.symsOf .fsyn s.lenFsyn.toNat)).length a →
        t.mem.read? a = s.mem.read? a) ∧
    (exec .chien s = .next t →
      t = { s with mem := t.mem, numErrpos := t.numErrpos, code := t.code, busy := false, done := true } ∧
      ∀ a, ¬ InEntries .errpos
          (chienPositions s.field (s.symsOf .loc s.lenLoc.toNat) s.lenWork.toNat).length a →
        t.mem.read? a = s.mem.read? a) ∧
    (exec .correct s = .next t →
      t = { s with mem := t.mem, code := t.code, busy := false, done := true } ∧
      ∀ a, ¬ InEntries .work s.lenWork.toNat a → t.mem.read? a = s.mem.read? a) ∧
    (exec .verify s = .next t →
      t = { s with mem := t.mem, lenOut := t.lenOut, code := t.code, busy := false, done := true } ∧
      ∀ a, ¬ InEntries .out (s.lenWork.toNat - s.cfg.nsym) a → t.mem.read? a = s.mem.read? a)

/-- Frame of DECODE (R91, R73, R232), every count computed from the state before: the stages' entries and lengths,
OUT and LEN_OUT, and STATUS.  A DECODE that stops in LOAD changes only STATUS; one that stops in BM leaves LOC and
ERRPOS alone, one that stops in CHIEN leaves ERRPOS alone, and one that fails anywhere OUT; one that
short-circuits leaves FSYN, LOC and ERRPOS alone (R231), their lengths with them.  The premise is the machine's
invariant (StepKeepsInvariant). -/
def Obligations.DecodeFrame : Prop :=
  ∀ s t : State, s.Inv → exec .decode s = .next t →
    let L := s.lenIn.toNat
    let era := erasuresFrom 0 (s.receivedOf L)
    let S := syndromes s.field s.cfg.nsym (workingCodeword (s.receivedOf L))
    let fsyn := forney s.field S era L
    let loc := bmLocator s.field fsyn
    t = { s with mem := t.mem, lenWork := t.lenWork, numEra := t.numEra, lenSyn := t.lenSyn,
                 lenFsyn := t.lenFsyn, lenLoc := t.lenLoc, numErrpos := t.numErrpos, lenOut := t.lenOut,
                 code := t.code, busy := false, done := true } ∧
    (∀ a, ¬ InEntries .work L a → ¬ InEntries .era era.length a → ¬ InEntries .syn s.cfg.nsym a →
      ¬ InEntries .fsyn fsyn.length a → ¬ InEntries .loc loc.length a →
      ¬ InEntries .errpos (chienPositions s.field loc L).length a →
      ¬ InEntries .out (L - s.cfg.nsym) a → t.mem.read? a = s.mem.read? a) ∧
    (t.code ∈ ([.notConfigured, .inputTooLong, .invalidSymbol, .tooManyErasures] : List StatusCode) →
      t = { s with code := t.code, busy := false, done := true }) ∧
    (t.code = .tooManyErrors → t.lenLoc = s.lenLoc ∧ t.numErrpos = s.numErrpos ∧
      KeepsBuffer .loc s t ∧ KeepsBuffer .errpos s t) ∧
    (t.code = .errorLocationFailure → t.numErrpos = s.numErrpos ∧ KeepsBuffer .errpos s t) ∧
    (t.code ≠ .ok → t.lenOut = s.lenOut ∧ KeepsBuffer .out s t) ∧
    (t.code = .ok → (∀ v ∈ S, v = 0) →
      t.lenFsyn = s.lenFsyn ∧ t.lenLoc = s.lenLoc ∧ t.numErrpos = s.numErrpos ∧
      KeepsBuffer .fsyn s t ∧ KeepsBuffer .loc s t ∧ KeepsBuffer .errpos s t)

/-- Frame of NOP and CONFIGURE (R91, R112): CONFIGURE changes cfg, EXP, LOG, CONFIGURED and STATUS, NOP only
STATUS; no byte of memory, so no buffer entry and no written flag. -/
def Obligations.ControlCommandsFrame : Prop :=
  ∀ s t : State,
    (exec .nop s = .next t → t = { s with code := t.code, busy := false, done := true } ∧
      ∀ a, t.mem.read? a = s.mem.read? a) ∧
    (exec .configure s = .next t →
      t = { s with cfg := t.cfg, exp := t.exp, log := t.log, configured := t.configured, code := t.code,
                   busy := false, done := true } ∧
      ∀ a, t.mem.read? a = s.mem.read? a)

/-! ### Host bus, interrupt, reset -/

/-- R25: a host write to CMD latches any word, legal or not, and sets BUSY and clears DONE and CODE while
IDLE; while BUSY it is dropped and sets OVR; CMD reads as 0.  When the engine's step follows (wait) and the
free-value counter are the model's own choice (log 5, 6).  What executing an illegal word does is
IllegalWordChangesOnlyStatus. -/
def Obligations.CmdWriteIssuesOrDrops : Prop :=
  ∀ (s : State) (w : Word), s.rst = false →
    (s.busy = true → busWrite s 0x00C 4 w = .ok { s with ovr := true }) ∧
    (s.busy = false → ∃ t, busWrite s 0x00C 4 w = .ok t ∧
      t = { s with pending := w, done := false, code := .ok, busy := true, wait := t.wait, free := t.free }) ∧
    (s.busy = false → busRead s 0x00C 4 = .ok (0, s))

/-- R23, R43, R256: the fields STATUS reads as, IRQ among them, in either sequencer state; and a host write to
STATUS clears DONE by bit 1 and OVR by bit 3 and changes nothing else.  CODE reads as R250's numbers. -/
def Obligations.StatusFieldsAndWriteOneToClear : Prop :=
  (∀ s : State, s.rst = false →
    (∃ w, busRead s 0x008 4 = .ok (w, s) ∧
      w.getLsbD 0 = s.busy ∧ w.getLsbD 1 = s.done ∧ w.getLsbD 2 = s.configured ∧ w.getLsbD 3 = s.ovr ∧
      w.getLsbD 4 = (s.done && s.ie) ∧ w.extractLsb' 5 3 = 0 ∧ w.extractLsb' 8 8 = s.code.byte ∧
      w.extractLsb' 16 16 = 0) ∧
    (∀ v : Word, busWrite s 0x008 4 v =
      .ok { s with done := s.done && !v.getLsbD 1, ovr := s.ovr && !v.getLsbD 3 })) ∧
  StatusCode.ok.byte = 0x00 ∧ StatusCode.configurationError.byte = 0x01 ∧
  StatusCode.divisionByZero.byte = 0x02 ∧ StatusCode.inputTooLong.byte = 0x03 ∧
  StatusCode.tooManyErasures.byte = 0x04 ∧ StatusCode.tooManyErrors.byte = 0x05 ∧
  StatusCode.errorLocationFailure.byte = 0x06 ∧ StatusCode.correctionVerificationFailure.byte = 0x07 ∧
  StatusCode.notConfigured.byte = 0x08 ∧ StatusCode.operandRange.byte = 0x09 ∧
  StatusCode.invalidSymbol.byte = 0x0A ∧ StatusCode.illegalCommand.byte = 0x0B

/-- R66: while BUSY a host write to any legal address but STATUS is dropped and sets OVR; a write to STATUS
leaves DONE, already 0, at 0; reads of ID and STATUS return their value; a read of any other legal address
is a draw.  That a draw is Config.freeWord of a counter that advances is the model's choice (log 6), and that
a legal access is one R63 does not name, BUSY or not, is its reading (log 8). -/
def Obligations.BusyAccess : Prop :=
  ∀ s : State, s.rst = false → s.busy = true →
    (∀ (a : Nat) (v : Word), (locate a 4).isSome = true → a ≠ 0x008 →
      busWrite s a 4 v = .ok { s with ovr := true }) ∧
    (∀ v : Word, s.statusInv = true →
      s.done = false ∧ busWrite s 0x008 4 v = .ok { s with ovr := s.ovr && !v.getLsbD 3 }) ∧
    busRead s 0x000 4 = .ok (0x52530007, s) ∧ busRead s 0x008 4 = .ok (s.statusWord, s) ∧
    (∀ a : Nat, (locate a 4).isSome = true → a ≠ 0x000 → a ≠ 0x008 →
      busRead s a 4 = .ok (Config.freeWord s.free, { s with free := s.free + 1 }))

/-- R63: an access is a bus error exactly when its size is not 4, its address is not a multiple of 4, or the
address is in the unmapped or reserved ranges or outside the window; the model then records HostBusError.
That this comes before the rules for BUSY and RST is the model's reading (log 8). -/
def Obligations.BusErrorsExactly : Prop :=
  ∀ (s : State) (a size : Nat) (v : Word),
    (size ≠ 4 ∨ a % 4 ≠ 0 ∨ (0x00006C ≤ a ∧ a < 0x040000) ∨ 0x380000 ≤ a →
      busRead s a size = .error (.hostBusError a) ∧ busWrite s a size v = .error (.hostBusError a)) ∧
    (size = 4 → a % 4 = 0 → a < 0x00006C ∨ (0x040000 ≤ a ∧ a < 0x380000) →
      (∃ r, busRead s a size = .ok r) ∧ ∃ t, busWrite s a size v = .ok t)

/-- R65, R62, R67: a host read changes nothing of the engine (only the model's free-value counter, log 6); while IDLE a
second read of a register or a written entry returns the same value, a read of a written entry returns the entry the
commands write and read, and a read of an unwritten entry (R40, U2) is a draw with the reserved bits 0.  That a draw is Config.freeWord of that counter is the model's choice (log 6). -/
def Obligations.ReadsHaveNoSideEffects : Prop :=
  (∀ (s t : State) (a : Nat) (v : Word), busRead s a 4 = .ok (v, t) →
    t = { s with free := t.free } ∧
    (s.rst = false → s.busy = false →
      (∃ r, locate a 4 = some (.reg r)) ∨ (∃ b i, locate a 4 = some (.entry b i) ∧ (s.mem.entry? b i).isSome = true) →
      t = s ∧ busRead t a 4 = .ok (v, t))) ∧
  (∀ (s : State) (b : Buf) (i : Nat) (w : Word), s.rst = false → s.busy = false → i < b.depth →
    s.mem.entry? b i = some w → busRead s (b.base + 4 * i) 4 = .ok (w, s)) ∧
  ∀ (s : State) (b : Buf) (i : Nat), s.rst = false → s.busy = false → i < b.depth → s.mem.entry? b i = none →
    busRead s (b.base + 4 * i) 4 =
      .ok (Config.freeWord s.free &&& (if b = .inp then 0x8000FFFF else 0x0000FFFF), { s with free := s.free + 1 })

/-- R62, R36 to R39, R67: while IDLE a host write to entry i of a buffer stores the entry's defined bits, a read
then returns them with the reserved bits 0, the commands see that entry, its SYM and in IN its ERASED, and no other
byte or entry changes.  What the commands store, symbol j in entry j, is what the entries then hold, the others as
before.  The buffers are at R36's bases with R8's depths. -/
def Obligations.EntryWriteThenRead : Prop :=
  (∀ (s : State) (b : Buf) (i : Nat) (v : Word), s.rst = false → s.busy = false → i < b.depth →
    let a := b.base + 4 * i
    let w := v &&& (if b = .inp then 0x8000FFFF else 0x0000FFFF)
    ∃ t, busWrite s a 4 v = .ok t ∧ t = { s with mem := t.mem } ∧
      busRead t a 4 = .ok (w, t) ∧
      t.mem.entry? b i = some w ∧ t.symAt b i = (v.extractLsb' 0 16).toNat ∧
      (b = .inp → t.erasedAt i = v.getLsbD 31) ∧
      (∀ (c : Buf) (j : Nat), c ≠ b ∨ j ≠ i → j < c.depth → t.mem.entry? c j = s.mem.entry? c j) ∧
      ∀ x, x < a ∨ a + 4 ≤ x → t.mem.read? x = s.mem.read? x) ∧
  (∀ (m : Memory) (b : Buf) (vs : List Nat), vs.length ≤ b.depth →
    (∀ j < vs.length, vs.getD j 0 < 65536 →
      (m.store b vs).entry? b j = some (BitVec.ofNat 32 (vs.getD j 0))) ∧
    (∀ (c : Buf) (j : Nat), c ≠ b ∨ vs.length ≤ j → j < c.depth → (m.store b vs).entry? c j = m.entry? c j)) ∧
  ∀ b : Buf, b.depth = (if b = .pr then 131072 else 65536) ∧
    b.base = match b with
      | .inp => 0x040000 | .out => 0x080000 | .work => 0x0C0000 | .syn => 0x100000 | .fsyn => 0x140000
      | .loc => 0x180000 | .era => 0x1C0000 | .errpos => 0x200000 | .gen => 0x240000
      | .pa => 0x280000 | .pb => 0x2C0000 | .pr => 0x300000

/-- R34, R35, R21, R22, R26 to R29, R33, R67: while IDLE every register reads as the state its rule names, which is what
the commands read and write; a write to a read-write register writes that state and nothing else, is read back whole
and changes no other register's value; CTRL stores bit 0 only; a write to a read-only register is ignored.  That cfg
holds naturals, of which the registers read the low 32 bits, is the model's reading (log 12). -/
def Obligations.RegisterWriteThenRead : Prop :=
  ∀ (s : State) (v : Word), s.rst = false → s.busy = false →
    (∀ r ∈ ([.cfgN, .cfgK, .opA, .opB, .lenIn, .lenWork, .lenSyn, .lenFsyn, .lenLoc, .numEra, .numErrpos,
        .lenA, .lenB] : List Reg),
      ∃ t, busWrite s r.offset 4 v = .ok t ∧ busRead t r.offset 4 = .ok (v, t) ∧
        (∀ r' : Reg, r' ≠ r → t.readReg r' = s.readReg r') ∧ t.mem = s.mem) ∧
    (∃ t, busWrite s 0x004 4 v = .ok t ∧ t = { s with ie := v.getLsbD 0 } ∧
      busRead t 0x004 4 = .ok (v &&& 1, t)) ∧
    (∀ r ∈ ([.id, .actN, .actK, .q, .m, .nsym, .prim, .result, .lenOut, .lenGen, .lenR] : List Reg),
      busWrite s r.offset 4 v = .ok s) ∧
    (∀ r : Reg, busRead s r.offset 4 = .ok (s.readReg r, s)) ∧
    (busRead s 0x000 4 = .ok (0x52530007, s) ∧ busRead s 0x004 4 = .ok (if s.ie then 1 else 0, s) ∧
      busRead s 0x008 4 = .ok (s.statusWord, s) ∧ busRead s 0x00C 4 = .ok (0, s) ∧
      busRead s 0x010 4 = .ok (s.cfgN, s) ∧ busRead s 0x014 4 = .ok (s.cfgK, s) ∧
      busRead s 0x018 4 = .ok (BitVec.ofNat 32 s.cfg.n, s) ∧ busRead s 0x01C 4 = .ok (BitVec.ofNat 32 s.cfg.k, s) ∧
      busRead s 0x020 4 = .ok (BitVec.ofNat 32 s.cfg.q, s) ∧ busRead s 0x024 4 = .ok (BitVec.ofNat 32 s.cfg.m, s) ∧
      busRead s 0x028 4 = .ok (BitVec.ofNat 32 s.cfg.nsym, s) ∧
      busRead s 0x02C 4 = .ok (BitVec.ofNat 32 s.cfg.prim, s) ∧
      busRead s 0x030 4 = .ok (s.opA, s) ∧ busRead s 0x034 4 = .ok (s.opB, s) ∧
      busRead s 0x038 4 = .ok (s.result, s) ∧ busRead s 0x03C 4 = .ok (s.lenIn, s) ∧
      busRead s 0x040 4 = .ok (s.lenOut, s) ∧ busRead s 0x044 4 = .ok (s.lenWork, s) ∧
      busRead s 0x048 4 = .ok (s.lenSyn, s) ∧ busRead s 0x04C 4 = .ok (s.lenFsyn, s) ∧
      busRead s 0x050 4 = .ok (s.lenLoc, s) ∧ busRead s 0x054 4 = .ok (s.numEra, s) ∧
      busRead s 0x058 4 = .ok (s.numErrpos, s) ∧ busRead s 0x05C 4 = .ok (s.lenGen, s) ∧
      busRead s 0x060 4 = .ok (s.lenA, s) ∧ busRead s 0x064 4 = .ok (s.lenB, s) ∧
      busRead s 0x068 4 = .ok (s.lenR, s)) ∧
    (busWrite s 0x010 4 v = .ok { s with cfgN := v } ∧ busWrite s 0x014 4 v = .ok { s with cfgK := v } ∧
      busWrite s 0x030 4 v = .ok { s with opA := v } ∧ busWrite s 0x034 4 v = .ok { s with opB := v } ∧
      busWrite s 0x03C 4 v = .ok { s with lenIn := v } ∧ busWrite s 0x044 4 v = .ok { s with lenWork := v } ∧
      busWrite s 0x048 4 v = .ok { s with lenSyn := v } ∧ busWrite s 0x04C 4 v = .ok { s with lenFsyn := v } ∧
      busWrite s 0x050 4 v = .ok { s with lenLoc := v } ∧ busWrite s 0x054 4 v = .ok { s with numEra := v } ∧
      busWrite s 0x058 4 v = .ok { s with numErrpos := v } ∧ busWrite s 0x060 4 v = .ok { s with lenA := v } ∧
      busWrite s 0x064 4 v = .ok { s with lenB := v })

/-- R280: the reset state.  Every register reads its reset value, the engine is IDLE with IRQ at 0 and cfg
all 0 and invalid, and every buffer entry is unwritten.  The model's own reset values of PENDING, EXP and
LOG (log 1, 2) are not part of this. -/
def Obligations.ResetState : Prop :=
  State.reset.busy = false ∧ State.reset.irq = false ∧ State.reset.configured = false ∧
  State.reset.cfg = Cfg.zero ∧
  (∀ r : Reg, State.reset.readReg r = if r = .id then 0x52530007 else 0) ∧
  ∀ b i, State.reset.mem.entry? b i = none

/-- R281: RST asserted and released leaves the reset state of R280, so a latched command is discarded; while
it is asserted a legal host write has no effect and a legal host read is a draw.  Parameters, the host's
remaining moves and records and the free-value counter are kept (log 9, 10).  That under RST every legal read, ID and
STATUS among them, is a draw, although R21 says that ID reads its value at all times, is the model's choice (log 9),
and so is that a draw is Config.freeWord of a counter that advances (log 6). -/
def Obligations.ResetInputDiscardsCommand : Prop :=
  ∀ s : State,
    (s.setRst true).setRst false =
      { State.reset with params := s.params, host := s.host, reads := s.reads, free := s.free } ∧
    (s.setRst true).busy = false ∧ (s.setRst true).engineTurn = false ∧
    (s.rst = true → ∀ (a : Nat) (v : Word), (locate a 4).isSome = true →
      busWrite s a 4 v = .ok s ∧
      busRead s a 4 = .ok (Config.freeWord s.free, { s with free := s.free + 1 }))

/-! ### The machine -/

/-- Every step, the engine's or the host's, keeps the machine's invariant: well-formed parameters, R30's
configuration and tables, DONE = 0 and CODE = 0 while BUSY, buffer memory in canonical form with every
entry's reserved bits 0, and the engine's lengths within their buffers.  Tables that are empty while CONFIGURED = 0,
no BUSY under RST and the parameters in State are the model's choices (log 2, 9, 10). -/
def Obligations.StepKeepsInvariant : Prop :=
  ∀ s t : State, s.Inv → step s = .next t → t.Inv

/-- The invariant of StepKeepsInvariant holds at reset (PENDING, EXP, LOG and the parameters there: log 1, 2, 10). -/
def Obligations.ResetMeetsInvariant : Prop := State.reset.Inv

/-- R44: which steps change which flag, RST moves apart.  BUSY is set by a CMD write and cleared by completion;
DONE is set by completion and cleared by a CMD write or by W1C; CONFIGURED is set by a CONFIGURE that
completes with OK and never cleared; OVR is set by a host write while BUSY and cleared by W1C; CODE is
written by a CMD write (0x00) and by completion. -/
def Obligations.FlagDiscipline : Prop :=
  ∀ s t : State, step s = .next t → (s.engineTurn = true ∨ ∀ b rest, s.host ≠ .rst b :: rest) →
    let cmdWrite := s.engineTurn = false ∧ ∃ w rest, s.host = .write 0x00C 4 w :: rest
    let statusWrite := fun k : Nat => s.engineTurn = false ∧
      ∃ (w : Word) (rest : List HostOp), s.host = .write 0x008 4 w :: rest ∧ w.getLsbD k = true
    (s.busy = false → t.busy = true → cmdWrite) ∧
    (s.busy = true → t.busy = false → s.engineTurn = true) ∧
    (s.done = false → t.done = true → s.engineTurn = true) ∧
    (s.done = true → t.done = false → cmdWrite ∨ statusWrite 1) ∧
    (s.configured = false → t.configured = true →
      s.engineTurn = true ∧ s.pending = encode .configure ∧ t.code = .ok) ∧
    (s.configured = true → t.configured = true) ∧
    (s.ovr = false → t.ovr = true → s.busy = true ∧ s.engineTurn = false ∧
      ∃ a v rest, s.host = .write a 4 v :: rest ∧ a ≠ 0x008) ∧
    (s.ovr = true → t.ovr = false → statusWrite 3) ∧
    (s.code ≠ t.code → s.engineTurn = true ∨ (cmdWrite ∧ t.code = .ok))

/-- R290, R287: a latched command is executed after a bounded number of steps: while the host only waits, for
BUSY = 0 (WAIT) or for IRQ, after exactly `wait` of its moves it is the engine's turn, with PENDING and every
operand as they were at the start; and a wait for IRQ ends exactly when IRQ is 1.  That `wait` is finite is the
model's form of weak fairness (log 5), a wait for IRQ as a host move its choice (log 22). -/
def Obligations.LatchedCommandRunsWithinBound : Prop :=
  (∀ (s : State) (rest : List HostOp), s.rst = false → s.busy = true → s.host = waitOp :: rest →
    ∃ t, Sys2Proof.core.run s.wait s = .next t ∧ t.engineTurn = true ∧
      t = { s with wait := 0, reads := t.reads } ∧ t.reads.length = s.reads.length + s.wait) ∧
  (∀ (s : State) (rest : List HostOp), s.rst = false → s.busy = true → s.statusInv = true →
    s.host = .waitIrq :: rest →
    ∃ t, Sys2Proof.core.run s.wait s = .next t ∧ t.engineTurn = true ∧ t = { s with wait := 0 }) ∧
  ∀ (s : State) (rest : List HostOp), s.engineTurn = false → s.host = .waitIrq :: rest →
    step s = .next { s with wait := s.wait - 1, host := if s.done && s.ie then rest else .waitIrq :: rest }

/-- R233, item 4, which the spec marks as derived: a command's result is a function of its operands alone: it does not depend on IE, OVR, what
the host still has to do or has read, or on the model's own counters, and it leaves them alone. -/
def Obligations.CommandsIgnoreSurroundings : Prop :=
  ∀ (i : Instr) (s : State) (ie ovr : Bool) (pending : Word) (host : List HostOp) (reads : List HostRead)
    (wait free : Nat),
    let change := fun u : State =>
      { u with ie := ie, ovr := ovr, pending := pending, host := host, reads := reads, wait := wait, free := free }
    exec i (change s) =
      match exec i s with
      | .next t => .next (change t)
      | .fault f => .fault f
      | .refused r => .refused r
end

