-- ==== Sys2Proof/Laws/Memory.lean ====
section
/-! SUPPORT. Buffer memory: read after write, frames, the canonical form. -/

namespace Sys2Proof.Machine

/-! ### One byte -/

theorem Memory.read?_write_same (m : Memory) (a : Nat) (v : Byte) : (m.write a v).read? a = some v := by
  induction m with
  | nil => simp [Memory.write, Memory.read?]
  | cons c rest ih =>
    obtain ⟨k, x⟩ := c
    simp only [Memory.write]
    split
    · simp [Memory.read?]
    · split
      · simp [Memory.read?]
      · simp [Memory.read?, Ne.symm ‹¬a = k›, ih]

theorem Memory.read?_write_other (m : Memory) {a b : Nat} (h : b ≠ a) (v : Byte) :
    (m.write a v).read? b = m.read? b := by
  induction m with
  | nil => simp [Memory.write, Memory.read?, Ne.symm h]
  | cons c rest ih =>
    obtain ⟨k, x⟩ := c
    simp only [Memory.write]
    split
    · simp [Memory.read?, Ne.symm h]
    · split
      · subst_vars; simp [Memory.read?, Ne.symm h]
      · simp [Memory.read?, ih]

theorem Memory.read?_write (m : Memory) (a b : Nat) (v : Byte) :
    (m.write a v).read? b = if b = a then some v else m.read? b := by
  split
  · subst_vars; exact m.read?_write_same _ v
  · exact m.read?_write_other ‹_› v

/-! ### The canonical form -/

theorem Memory.wf_cons_cons (a b : Nat) (x y : Byte) (rest : Memory) :
    Memory.wf ((a, x) :: (b, y) :: rest) = (decide (a < b) && Memory.wf ((b, y) :: rest)) := rfl

theorem Memory.wf_iff_pairwise (m : Memory) :
    m.wf = true ↔ m.Pairwise (fun c d => c.1 < d.1) := by
  induction m with
  | nil => simp [Memory.wf]
  | cons c rest ih =>
    cases rest with
    | nil => simp [Memory.wf]
    | cons d rest =>
      obtain ⟨a, x⟩ := c
      obtain ⟨b, y⟩ := d
      rw [Memory.wf_cons_cons, Bool.and_eq_true, ih]
      constructor
      · rintro ⟨h, hp⟩
        refine List.pairwise_cons.2 ⟨?_, hp⟩
        intro e he
        have hab : a < b := of_decide_eq_true h
        rcases List.mem_cons.1 he with rfl | he
        · exact hab
        · exact lt_trans hab ((List.pairwise_cons.1 hp).1 e he)
      · intro hp
        have h := List.pairwise_cons.1 hp
        exact ⟨decide_eq_true (h.1 (b, y) (by simp)), h.2⟩

/-- Every listed cell of a written memory is the new one or an old one. -/
theorem Memory.mem_write {m : Memory} {a : Nat} {v : Byte} {c : Host.Cell} (h : c ∈ m.write a v) :
    c = (a, v) ∨ c ∈ m := by
  induction m with
  | nil => simpa [Memory.write] using h
  | cons d rest ih =>
    obtain ⟨k, x⟩ := d
    simp only [Memory.write] at h
    split at h
    · simpa using h
    · split at h
      · rcases List.mem_cons.1 h with h | h
        · exact .inl h
        · exact .inr (List.mem_cons_of_mem _ h)
      · rcases List.mem_cons.1 h with h | h
        · exact .inr (by simp [h])
        · exact (ih h).imp_right (List.mem_cons_of_mem _)

theorem Memory.write_wf {m : Memory} (h : m.wf = true) (a : Nat) (v : Byte) : (m.write a v).wf = true := by
  rw [Memory.wf_iff_pairwise] at h ⊢
  induction m with
  | nil => simp [Memory.write]
  | cons c rest ih =>
    obtain ⟨k, x⟩ := c
    have hc := List.pairwise_cons.1 h
    simp only [Memory.write]
    split
    · refine List.pairwise_cons.2 ⟨?_, h⟩
      intro e he
      rcases List.mem_cons.1 he with rfl | he
      · assumption
      · exact lt_trans ‹a < k› (hc.1 e he)
    · split
      · subst_vars
        exact List.pairwise_cons.2 ⟨fun e he => hc.1 e he, hc.2⟩
      · refine List.pairwise_cons.2 ⟨?_, ih hc.2⟩
        intro e he
        rcases Memory.mem_write he with rfl | he
        · show k < a; omega
        · exact hc.1 e he

/-! ### Words -/

theorem wordOfBytes_byteLane (w : Word) :
    wordOfBytes (byteLane w 0) (byteLane w 1) (byteLane w 2) (byteLane w 3) = w := by
  apply BitVec.eq_of_getLsbD_eq
  intro i hi
  simp only [wordOfBytes, byteLane, BitVec.getLsbD_append, BitVec.getLsbD_extractLsb']
  rcases (by omega : i < 8 ∨ 8 ≤ i ∧ i < 16 ∨ 16 ≤ i ∧ i < 24 ∨ 24 ≤ i ∧ i < 32) with h | h | h | h
  · simp [h]
  · simp [show ¬ i < 8 by omega, show i - 8 < 8 by omega, show 8 + (i - 8) = i by omega]
  · simp [show ¬ i < 8 by omega, show ¬ i - 8 < 8 by omega, show i - 8 - 8 < 8 by omega,
      show 16 + (i - 8 - 8) = i by omega]
  · simp [show ¬ i < 8 by omega, show ¬ i - 8 < 8 by omega, show ¬ i - 8 - 8 < 8 by omega,
      show i - 8 - 8 - 8 < 8 by omega, show 24 + (i - 8 - 8 - 8) = i by omega]

theorem Memory.read?_writeWord (m : Memory) (a b : Nat) (w : Word) :
    (m.writeWord a w).read? b =
      if b = a + 3 then some (byteLane w 3) else if b = a + 2 then some (byteLane w 2)
      else if b = a + 1 then some (byteLane w 1) else if b = a then some (byteLane w 0)
      else m.read? b := by
  simp only [Memory.writeWord, Memory.read?_write]

theorem Memory.read?_writeWord_other (m : Memory) {a b : Nat} (h : b < a ∨ a + 4 ≤ b) (w : Word) :
    (m.writeWord a w).read? b = m.read? b := by
  rw [Memory.read?_writeWord]
  rw [if_neg (by omega), if_neg (by omega), if_neg (by omega), if_neg (by omega)]

theorem Memory.readWord?_writeWord_same (m : Memory) (a : Nat) (w : Word) :
    (m.writeWord a w).readWord? a = some w := by
  simp [Memory.readWord?, Memory.read?_writeWord, wordOfBytes_byteLane]

theorem Memory.readWord?_congr {m m' : Memory} {a : Nat} (h : ∀ b, a ≤ b → b < a + 4 → m.read? b = m'.read? b) :
    m.readWord? a = m'.readWord? a := by
  simp only [Memory.readWord?]
  rw [h a (by omega) (by omega), h (a + 1) (by omega) (by omega), h (a + 2) (by omega) (by omega),
    h (a + 3) (by omega) (by omega)]

theorem Memory.writeWord_wf {m : Memory} (h : m.wf = true) (a : Nat) (w : Word) :
    (m.writeWord a w).wf = true :=
  Memory.write_wf (Memory.write_wf (Memory.write_wf (Memory.write_wf h _ _) _ _) _ _) _ _

/-! ### Entries -/

theorem Memory.entry?_setEntry_same (m : Memory) (b : Buf) (i : Nat) (w : Word) :
    (m.setEntry b i w).entry? b i = some (w &&& b.mask) :=
  Memory.readWord?_writeWord_same _ _ _

theorem Memory.read?_setEntry_other (m : Memory) (b : Buf) (i : Nat) (w : Word) {a : Nat}
    (h : a < entryAddr b i ∨ entryAddr b i + 4 ≤ a) : (m.setEntry b i w).read? a = m.read? a :=
  Memory.read?_writeWord_other _ h _

theorem Memory.entry?_setEntry_other (m : Memory) {b c : Buf} {i j : Nat} (w : Word)
    (h : entryAddr c j + 4 ≤ entryAddr b i ∨ entryAddr b i + 4 ≤ entryAddr c j) :
    (m.setEntry b i w).entry? c j = m.entry? c j :=
  Memory.readWord?_congr fun a h1 h2 => Memory.read?_setEntry_other m b i w (by omega)

theorem Memory.setEntry_wf {m : Memory} (h : m.wf = true) (b : Buf) (i : Nat) (w : Word) :
    (m.setEntry b i w).wf = true :=
  Memory.writeWord_wf h _ _

/-- A written entry stays written: no write clears a flag (10_state R40). -/
theorem Memory.read?_write_isSome {m : Memory} {a : Nat} (b : Nat) (v : Byte) (h : (m.read? a).isSome) :
    ((m.write b v).read? a).isSome := by
  rw [Memory.read?_write]; split
  · rfl
  · exact h

/-! ### Runs of entries -/

theorem Memory.storeFrom_wf {m : Memory} (h : m.wf = true) (b : Buf) (i : Nat) (vs : List Nat) :
    (m.storeFrom b i vs).wf = true := by
  induction vs generalizing m i with
  | nil => exact h
  | cons v vs ih => exact ih (Memory.setEntry_wf h b i _) (i + 1)

/-- Every engine write keeps the canonical form. -/
theorem Memory.store_wf {m : Memory} (h : m.wf = true) (b : Buf) (vs : List Nat) :
    (m.store b vs).wf = true :=
  Memory.storeFrom_wf h b 0 vs

/-- A run of entry writes changes no byte outside the entries written. -/
theorem Memory.read?_storeFrom_other (m : Memory) (b : Buf) (i : Nat) (vs : List Nat) {a : Nat}
    (h : a < b.base + 4 * i ∨ b.base + 4 * (i + vs.length) ≤ a) :
    (m.storeFrom b i vs).read? a = m.read? a := by
  induction vs generalizing m i with
  | nil => rfl
  | cons v vs ih =>
    simp only [List.length_cons] at h
    rw [Memory.storeFrom, ih _ _ (by omega), Memory.read?_setEntry_other]
    simp only [entryAddr]; omega

theorem Memory.read?_store_other (m : Memory) (b : Buf) (vs : List Nat) {a : Nat}
    (h : a < b.base ∨ b.base + 4 * vs.length ≤ a) : (m.store b vs).read? a = m.read? a :=
  Memory.read?_storeFrom_other m b 0 vs (by omega)

theorem Memory.entry?_storeFrom_other (m : Memory) {b c : Buf} {i j : Nat} (vs : List Nat)
    (h : entryAddr c j + 4 ≤ b.base + 4 * i ∨ b.base + 4 * (i + vs.length) ≤ entryAddr c j) :
    (m.storeFrom b i vs).entry? c j = m.entry? c j :=
  Memory.readWord?_congr fun a h1 h2 => Memory.read?_storeFrom_other m b i vs (by omega)

/-- The entry a run of engine writes leaves at an index it covers. -/
theorem Memory.entry?_storeFrom_same (m : Memory) (b : Buf) (i : Nat) (vs : List Nat) {j : Nat}
    (h : j < vs.length) :
    (m.storeFrom b i vs).entry? b (i + j) = some (symWord (vs.getD j 0) &&& b.mask) := by
  induction vs generalizing m i j with
  | nil => simp at h
  | cons v vs ih =>
    cases j with
    | zero =>
      rw [Memory.storeFrom, Memory.entry?_storeFrom_other, Nat.add_zero, Memory.entry?_setEntry_same]
      · simp
      · left; simp only [entryAddr]; omega
    | succ j =>
      have := ih (m.setEntry b i (symWord v)) (i + 1) (j := j) (by simpa using h)
      rw [Memory.storeFrom, show i + (j + 1) = i + 1 + j by omega, this]
      simp

theorem Memory.entry?_store_same (m : Memory) (b : Buf) (vs : List Nat) {j : Nat} (h : j < vs.length) :
    (m.store b vs).entry? b j = some (symWord (vs.getD j 0) &&& b.mask) := by
  simpa [Memory.store] using Memory.entry?_storeFrom_same m b 0 vs h

theorem Memory.entry?_store_other (m : Memory) {b c : Buf} {j : Nat} (vs : List Nat)
    (h : entryAddr c j + 4 ≤ b.base ∨ b.base + 4 * vs.length ≤ entryAddr c j) :
    (m.store b vs).entry? c j = m.entry? c j :=
  Memory.entry?_storeFrom_other m vs (by omega)

/-! ### The address map: entries of the buffers do not overlap (20_memory R60, 10_state R36) -/

/-- The buffer that the byte address of one of its entries falls in. -/
theorem Buf.inRange_entry (b : Buf) {i : Nat} (h : i < b.depth) :
    (fun c : Buf => c.base ≤ b.base + 4 * i && b.base + 4 * i < c.base + 4 * c.depth : Buf → Bool) =
      fun c => decide (c = b) := by
  funext c
  rw [← Bool.decide_and, decide_eq_decide]
  constructor
  · cases b <;> cases c <;> simp only [Buf.base, Buf.depth] at h ⊢ <;> first | (intro; trivial) | (intro; omega)
  · rintro rfl; exact ⟨by omega, by omega⟩

/-- The bus finds entry `i` of a buffer at base + 4*i. -/
theorem locate_entry (b : Buf) {i : Nat} (h : i < b.depth) : locate (b.base + 4 * i) 4 = some (.entry b i) := by
  have hb : b.base % 4 = 0 ∧ 0x040000 ≤ b.base := by cases b <;> decide
  have hf : Buf.all.find? (fun c => decide (c = b)) = some b := by cases b <;> rfl
  rw [locate, if_neg (by omega), if_neg (by omega), Buf.entryAt?, Buf.inRange_entry b h, hf]
  simp

theorem Buf.apart {b c : Buf} (h : c ≠ b) : c.base + 4 * c.depth ≤ b.base ∨ b.base + 4 * b.depth ≤ c.base := by
  revert h; cases b <;> cases c <;> decide

/-- An entry that a store of `n` values to a buffer does not write lies outside the bytes written. -/
theorem entryAddr_apart_store {b c : Buf} {n j : Nat} (hn : n ≤ b.depth) (hj : j < c.depth) (h : c ≠ b ∨ n ≤ j) :
    entryAddr c j + 4 ≤ b.base ∨ b.base + 4 * n ≤ entryAddr c j := by
  unfold entryAddr
  by_cases e : c = b
  · subst e; right; have := h.resolve_left (by simp); omega
  · have := Buf.apart e; omega

/-- Different entries lie apart. -/
theorem entryAddr_apart {b c : Buf} {i j : Nat} (hi : i < b.depth) (hj : j < c.depth) (h : c ≠ b ∨ j ≠ i) :
    entryAddr c j + 4 ≤ entryAddr b i ∨ entryAddr b i + 4 ≤ entryAddr c j := by
  unfold entryAddr
  by_cases e : c = b
  · subst e; have := h.resolve_left (by simp); omega
  · have := Buf.apart e; omega

end Sys2Proof.Machine
end

