-- ==== Sys2Proof/Laws/State.lean ====
section
/-! SUPPORT. One lemma per field per named update of State: what the update leaves and what it sets. -/

namespace Sys2Proof.Machine

/-! ### Completion (10_state R24) -/

@[simp] theorem State.finish_params (s : State) (c : StatusCode) : (s.finish c).params = s.params := rfl
@[simp] theorem State.finish_busy (s : State) (c : StatusCode) : (s.finish c).busy = false := rfl
@[simp] theorem State.finish_done (s : State) (c : StatusCode) : (s.finish c).done = true := rfl
@[simp] theorem State.finish_configured (s : State) (c : StatusCode) : (s.finish c).configured = s.configured := rfl
@[simp] theorem State.finish_ovr (s : State) (c : StatusCode) : (s.finish c).ovr = s.ovr := rfl
@[simp] theorem State.finish_code (s : State) (c : StatusCode) : (s.finish c).code = c := rfl
@[simp] theorem State.finish_ie (s : State) (c : StatusCode) : (s.finish c).ie = s.ie := rfl
@[simp] theorem State.finish_pending (s : State) (c : StatusCode) : (s.finish c).pending = s.pending := rfl
@[simp] theorem State.finish_cfgN (s : State) (c : StatusCode) : (s.finish c).cfgN = s.cfgN := rfl
@[simp] theorem State.finish_cfgK (s : State) (c : StatusCode) : (s.finish c).cfgK = s.cfgK := rfl
@[simp] theorem State.finish_cfg (s : State) (c : StatusCode) : (s.finish c).cfg = s.cfg := rfl
@[simp] theorem State.finish_exp (s : State) (c : StatusCode) : (s.finish c).exp = s.exp := rfl
@[simp] theorem State.finish_log (s : State) (c : StatusCode) : (s.finish c).log = s.log := rfl
@[simp] theorem State.finish_opA (s : State) (c : StatusCode) : (s.finish c).opA = s.opA := rfl
@[simp] theorem State.finish_opB (s : State) (c : StatusCode) : (s.finish c).opB = s.opB := rfl
@[simp] theorem State.finish_result (s : State) (c : StatusCode) : (s.finish c).result = s.result := rfl
@[simp] theorem State.finish_lenIn (s : State) (c : StatusCode) : (s.finish c).lenIn = s.lenIn := rfl
@[simp] theorem State.finish_lenOut (s : State) (c : StatusCode) : (s.finish c).lenOut = s.lenOut := rfl
@[simp] theorem State.finish_lenWork (s : State) (c : StatusCode) : (s.finish c).lenWork = s.lenWork := rfl
@[simp] theorem State.finish_lenSyn (s : State) (c : StatusCode) : (s.finish c).lenSyn = s.lenSyn := rfl
@[simp] theorem State.finish_lenFsyn (s : State) (c : StatusCode) : (s.finish c).lenFsyn = s.lenFsyn := rfl
@[simp] theorem State.finish_lenLoc (s : State) (c : StatusCode) : (s.finish c).lenLoc = s.lenLoc := rfl
@[simp] theorem State.finish_numEra (s : State) (c : StatusCode) : (s.finish c).numEra = s.numEra := rfl
@[simp] theorem State.finish_numErrpos (s : State) (c : StatusCode) : (s.finish c).numErrpos = s.numErrpos := rfl
@[simp] theorem State.finish_lenGen (s : State) (c : StatusCode) : (s.finish c).lenGen = s.lenGen := rfl
@[simp] theorem State.finish_lenA (s : State) (c : StatusCode) : (s.finish c).lenA = s.lenA := rfl
@[simp] theorem State.finish_lenB (s : State) (c : StatusCode) : (s.finish c).lenB = s.lenB := rfl
@[simp] theorem State.finish_lenR (s : State) (c : StatusCode) : (s.finish c).lenR = s.lenR := rfl
@[simp] theorem State.finish_mem (s : State) (c : StatusCode) : (s.finish c).mem = s.mem := rfl
@[simp] theorem State.finish_rst (s : State) (c : StatusCode) : (s.finish c).rst = s.rst := rfl
@[simp] theorem State.finish_host (s : State) (c : StatusCode) : (s.finish c).host = s.host := rfl
@[simp] theorem State.finish_reads (s : State) (c : StatusCode) : (s.finish c).reads = s.reads := rfl
@[simp] theorem State.finish_wait (s : State) (c : StatusCode) : (s.finish c).wait = s.wait := rfl
@[simp] theorem State.finish_free (s : State) (c : StatusCode) : (s.finish c).free = s.free := rfl

/-! ### Acknowledgement (60_exceptions R254) -/

@[simp] theorem State.clearDone_params (s : State) : (s.clearDone).params = s.params := rfl
@[simp] theorem State.clearDone_busy (s : State) : (s.clearDone).busy = s.busy := rfl
@[simp] theorem State.clearDone_done (s : State) : (s.clearDone).done = false := rfl
@[simp] theorem State.clearDone_configured (s : State) : (s.clearDone).configured = s.configured := rfl
@[simp] theorem State.clearDone_ovr (s : State) : (s.clearDone).ovr = s.ovr := rfl
@[simp] theorem State.clearDone_code (s : State) : (s.clearDone).code = s.code := rfl
@[simp] theorem State.clearDone_ie (s : State) : (s.clearDone).ie = s.ie := rfl
@[simp] theorem State.clearDone_pending (s : State) : (s.clearDone).pending = s.pending := rfl
@[simp] theorem State.clearDone_cfgN (s : State) : (s.clearDone).cfgN = s.cfgN := rfl
@[simp] theorem State.clearDone_cfgK (s : State) : (s.clearDone).cfgK = s.cfgK := rfl
@[simp] theorem State.clearDone_cfg (s : State) : (s.clearDone).cfg = s.cfg := rfl
@[simp] theorem State.clearDone_exp (s : State) : (s.clearDone).exp = s.exp := rfl
@[simp] theorem State.clearDone_log (s : State) : (s.clearDone).log = s.log := rfl
@[simp] theorem State.clearDone_opA (s : State) : (s.clearDone).opA = s.opA := rfl
@[simp] theorem State.clearDone_opB (s : State) : (s.clearDone).opB = s.opB := rfl
@[simp] theorem State.clearDone_result (s : State) : (s.clearDone).result = s.result := rfl
@[simp] theorem State.clearDone_lenIn (s : State) : (s.clearDone).lenIn = s.lenIn := rfl
@[simp] theorem State.clearDone_lenOut (s : State) : (s.clearDone).lenOut = s.lenOut := rfl
@[simp] theorem State.clearDone_lenWork (s : State) : (s.clearDone).lenWork = s.lenWork := rfl
@[simp] theorem State.clearDone_lenSyn (s : State) : (s.clearDone).lenSyn = s.lenSyn := rfl
@[simp] theorem State.clearDone_lenFsyn (s : State) : (s.clearDone).lenFsyn = s.lenFsyn := rfl
@[simp] theorem State.clearDone_lenLoc (s : State) : (s.clearDone).lenLoc = s.lenLoc := rfl
@[simp] theorem State.clearDone_numEra (s : State) : (s.clearDone).numEra = s.numEra := rfl
@[simp] theorem State.clearDone_numErrpos (s : State) : (s.clearDone).numErrpos = s.numErrpos := rfl
@[simp] theorem State.clearDone_lenGen (s : State) : (s.clearDone).lenGen = s.lenGen := rfl
@[simp] theorem State.clearDone_lenA (s : State) : (s.clearDone).lenA = s.lenA := rfl
@[simp] theorem State.clearDone_lenB (s : State) : (s.clearDone).lenB = s.lenB := rfl
@[simp] theorem State.clearDone_lenR (s : State) : (s.clearDone).lenR = s.lenR := rfl
@[simp] theorem State.clearDone_mem (s : State) : (s.clearDone).mem = s.mem := rfl
@[simp] theorem State.clearDone_rst (s : State) : (s.clearDone).rst = s.rst := rfl
@[simp] theorem State.clearDone_host (s : State) : (s.clearDone).host = s.host := rfl
@[simp] theorem State.clearDone_reads (s : State) : (s.clearDone).reads = s.reads := rfl
@[simp] theorem State.clearDone_wait (s : State) : (s.clearDone).wait = s.wait := rfl
@[simp] theorem State.clearDone_free (s : State) : (s.clearDone).free = s.free := rfl

/-! ### Latching a command word (10_state R25) -/

@[simp] theorem State.latch_params (s : State) (w : Word) : (s.latch w).params = s.params := rfl
@[simp] theorem State.latch_busy (s : State) (w : Word) : (s.latch w).busy = true := rfl
@[simp] theorem State.latch_done (s : State) (w : Word) : (s.latch w).done = false := rfl
@[simp] theorem State.latch_configured (s : State) (w : Word) : (s.latch w).configured = s.configured := rfl
@[simp] theorem State.latch_ovr (s : State) (w : Word) : (s.latch w).ovr = s.ovr := rfl
@[simp] theorem State.latch_code (s : State) (w : Word) : (s.latch w).code = .ok := rfl
@[simp] theorem State.latch_ie (s : State) (w : Word) : (s.latch w).ie = s.ie := rfl
@[simp] theorem State.latch_pending (s : State) (w : Word) : (s.latch w).pending = w := rfl
@[simp] theorem State.latch_cfgN (s : State) (w : Word) : (s.latch w).cfgN = s.cfgN := rfl
@[simp] theorem State.latch_cfgK (s : State) (w : Word) : (s.latch w).cfgK = s.cfgK := rfl
@[simp] theorem State.latch_cfg (s : State) (w : Word) : (s.latch w).cfg = s.cfg := rfl
@[simp] theorem State.latch_exp (s : State) (w : Word) : (s.latch w).exp = s.exp := rfl
@[simp] theorem State.latch_log (s : State) (w : Word) : (s.latch w).log = s.log := rfl
@[simp] theorem State.latch_opA (s : State) (w : Word) : (s.latch w).opA = s.opA := rfl
@[simp] theorem State.latch_opB (s : State) (w : Word) : (s.latch w).opB = s.opB := rfl
@[simp] theorem State.latch_result (s : State) (w : Word) : (s.latch w).result = s.result := rfl
@[simp] theorem State.latch_lenIn (s : State) (w : Word) : (s.latch w).lenIn = s.lenIn := rfl
@[simp] theorem State.latch_lenOut (s : State) (w : Word) : (s.latch w).lenOut = s.lenOut := rfl
@[simp] theorem State.latch_lenWork (s : State) (w : Word) : (s.latch w).lenWork = s.lenWork := rfl
@[simp] theorem State.latch_lenSyn (s : State) (w : Word) : (s.latch w).lenSyn = s.lenSyn := rfl
@[simp] theorem State.latch_lenFsyn (s : State) (w : Word) : (s.latch w).lenFsyn = s.lenFsyn := rfl
@[simp] theorem State.latch_lenLoc (s : State) (w : Word) : (s.latch w).lenLoc = s.lenLoc := rfl
@[simp] theorem State.latch_numEra (s : State) (w : Word) : (s.latch w).numEra = s.numEra := rfl
@[simp] theorem State.latch_numErrpos (s : State) (w : Word) : (s.latch w).numErrpos = s.numErrpos := rfl
@[simp] theorem State.latch_lenGen (s : State) (w : Word) : (s.latch w).lenGen = s.lenGen := rfl
@[simp] theorem State.latch_lenA (s : State) (w : Word) : (s.latch w).lenA = s.lenA := rfl
@[simp] theorem State.latch_lenB (s : State) (w : Word) : (s.latch w).lenB = s.lenB := rfl
@[simp] theorem State.latch_lenR (s : State) (w : Word) : (s.latch w).lenR = s.lenR := rfl
@[simp] theorem State.latch_mem (s : State) (w : Word) : (s.latch w).mem = s.mem := rfl
@[simp] theorem State.latch_rst (s : State) (w : Word) : (s.latch w).rst = s.rst := rfl
@[simp] theorem State.latch_host (s : State) (w : Word) : (s.latch w).host = s.host := rfl
@[simp] theorem State.latch_reads (s : State) (w : Word) : (s.latch w).reads = s.reads := rfl
@[simp] theorem State.latch_wait (s : State) (w : Word) : (s.latch w).wait = s.wait := rfl
@[simp] theorem State.latch_free (s : State) (w : Word) : (s.latch w).free = s.free := rfl

/-! ### A CMD write while IDLE (10_state R25) -/

@[simp] theorem State.issue_params (s : State) (w : Word) : (s.issue w).params = s.params := rfl
@[simp] theorem State.issue_busy (s : State) (w : Word) : (s.issue w).busy = true := rfl
@[simp] theorem State.issue_done (s : State) (w : Word) : (s.issue w).done = false := rfl
@[simp] theorem State.issue_configured (s : State) (w : Word) : (s.issue w).configured = s.configured := rfl
@[simp] theorem State.issue_ovr (s : State) (w : Word) : (s.issue w).ovr = s.ovr := rfl
@[simp] theorem State.issue_code (s : State) (w : Word) : (s.issue w).code = .ok := rfl
@[simp] theorem State.issue_ie (s : State) (w : Word) : (s.issue w).ie = s.ie := rfl
@[simp] theorem State.issue_pending (s : State) (w : Word) : (s.issue w).pending = w := rfl
@[simp] theorem State.issue_cfgN (s : State) (w : Word) : (s.issue w).cfgN = s.cfgN := rfl
@[simp] theorem State.issue_cfgK (s : State) (w : Word) : (s.issue w).cfgK = s.cfgK := rfl
@[simp] theorem State.issue_cfg (s : State) (w : Word) : (s.issue w).cfg = s.cfg := rfl
@[simp] theorem State.issue_exp (s : State) (w : Word) : (s.issue w).exp = s.exp := rfl
@[simp] theorem State.issue_log (s : State) (w : Word) : (s.issue w).log = s.log := rfl
@[simp] theorem State.issue_opA (s : State) (w : Word) : (s.issue w).opA = s.opA := rfl
@[simp] theorem State.issue_opB (s : State) (w : Word) : (s.issue w).opB = s.opB := rfl
@[simp] theorem State.issue_result (s : State) (w : Word) : (s.issue w).result = s.result := rfl
@[simp] theorem State.issue_lenIn (s : State) (w : Word) : (s.issue w).lenIn = s.lenIn := rfl
@[simp] theorem State.issue_lenOut (s : State) (w : Word) : (s.issue w).lenOut = s.lenOut := rfl
@[simp] theorem State.issue_lenWork (s : State) (w : Word) : (s.issue w).lenWork = s.lenWork := rfl
@[simp] theorem State.issue_lenSyn (s : State) (w : Word) : (s.issue w).lenSyn = s.lenSyn := rfl
@[simp] theorem State.issue_lenFsyn (s : State) (w : Word) : (s.issue w).lenFsyn = s.lenFsyn := rfl
@[simp] theorem State.issue_lenLoc (s : State) (w : Word) : (s.issue w).lenLoc = s.lenLoc := rfl
@[simp] theorem State.issue_numEra (s : State) (w : Word) : (s.issue w).numEra = s.numEra := rfl
@[simp] theorem State.issue_numErrpos (s : State) (w : Word) : (s.issue w).numErrpos = s.numErrpos := rfl
@[simp] theorem State.issue_lenGen (s : State) (w : Word) : (s.issue w).lenGen = s.lenGen := rfl
@[simp] theorem State.issue_lenA (s : State) (w : Word) : (s.issue w).lenA = s.lenA := rfl
@[simp] theorem State.issue_lenB (s : State) (w : Word) : (s.issue w).lenB = s.lenB := rfl
@[simp] theorem State.issue_lenR (s : State) (w : Word) : (s.issue w).lenR = s.lenR := rfl
@[simp] theorem State.issue_mem (s : State) (w : Word) : (s.issue w).mem = s.mem := rfl
@[simp] theorem State.issue_rst (s : State) (w : Word) : (s.issue w).rst = s.rst := rfl
@[simp] theorem State.issue_host (s : State) (w : Word) : (s.issue w).host = s.host := rfl
@[simp] theorem State.issue_reads (s : State) (w : Word) : (s.issue w).reads = s.reads := rfl
@[simp] theorem State.issue_wait (s : State) (w : Word) : (s.issue w).wait = Config.engineDelay s.free := rfl
@[simp] theorem State.issue_free (s : State) (w : Word) : (s.issue w).free = s.free + 1 := rfl

/-! ### A command latched and due at once -/

@[simp] theorem State.latchNow_params (s : State) (w : Word) : (s.latchNow w).params = s.params := rfl
@[simp] theorem State.latchNow_busy (s : State) (w : Word) : (s.latchNow w).busy = true := rfl
@[simp] theorem State.latchNow_done (s : State) (w : Word) : (s.latchNow w).done = false := rfl
@[simp] theorem State.latchNow_configured (s : State) (w : Word) : (s.latchNow w).configured = s.configured := rfl
@[simp] theorem State.latchNow_ovr (s : State) (w : Word) : (s.latchNow w).ovr = s.ovr := rfl
@[simp] theorem State.latchNow_code (s : State) (w : Word) : (s.latchNow w).code = .ok := rfl
@[simp] theorem State.latchNow_ie (s : State) (w : Word) : (s.latchNow w).ie = s.ie := rfl
@[simp] theorem State.latchNow_pending (s : State) (w : Word) : (s.latchNow w).pending = w := rfl
@[simp] theorem State.latchNow_cfgN (s : State) (w : Word) : (s.latchNow w).cfgN = s.cfgN := rfl
@[simp] theorem State.latchNow_cfgK (s : State) (w : Word) : (s.latchNow w).cfgK = s.cfgK := rfl
@[simp] theorem State.latchNow_cfg (s : State) (w : Word) : (s.latchNow w).cfg = s.cfg := rfl
@[simp] theorem State.latchNow_exp (s : State) (w : Word) : (s.latchNow w).exp = s.exp := rfl
@[simp] theorem State.latchNow_log (s : State) (w : Word) : (s.latchNow w).log = s.log := rfl
@[simp] theorem State.latchNow_opA (s : State) (w : Word) : (s.latchNow w).opA = s.opA := rfl
@[simp] theorem State.latchNow_opB (s : State) (w : Word) : (s.latchNow w).opB = s.opB := rfl
@[simp] theorem State.latchNow_result (s : State) (w : Word) : (s.latchNow w).result = s.result := rfl
@[simp] theorem State.latchNow_lenIn (s : State) (w : Word) : (s.latchNow w).lenIn = s.lenIn := rfl
@[simp] theorem State.latchNow_lenOut (s : State) (w : Word) : (s.latchNow w).lenOut = s.lenOut := rfl
@[simp] theorem State.latchNow_lenWork (s : State) (w : Word) : (s.latchNow w).lenWork = s.lenWork := rfl
@[simp] theorem State.latchNow_lenSyn (s : State) (w : Word) : (s.latchNow w).lenSyn = s.lenSyn := rfl
@[simp] theorem State.latchNow_lenFsyn (s : State) (w : Word) : (s.latchNow w).lenFsyn = s.lenFsyn := rfl
@[simp] theorem State.latchNow_lenLoc (s : State) (w : Word) : (s.latchNow w).lenLoc = s.lenLoc := rfl
@[simp] theorem State.latchNow_numEra (s : State) (w : Word) : (s.latchNow w).numEra = s.numEra := rfl
@[simp] theorem State.latchNow_numErrpos (s : State) (w : Word) : (s.latchNow w).numErrpos = s.numErrpos := rfl
@[simp] theorem State.latchNow_lenGen (s : State) (w : Word) : (s.latchNow w).lenGen = s.lenGen := rfl
@[simp] theorem State.latchNow_lenA (s : State) (w : Word) : (s.latchNow w).lenA = s.lenA := rfl
@[simp] theorem State.latchNow_lenB (s : State) (w : Word) : (s.latchNow w).lenB = s.lenB := rfl
@[simp] theorem State.latchNow_lenR (s : State) (w : Word) : (s.latchNow w).lenR = s.lenR := rfl
@[simp] theorem State.latchNow_mem (s : State) (w : Word) : (s.latchNow w).mem = s.mem := rfl
@[simp] theorem State.latchNow_rst (s : State) (w : Word) : (s.latchNow w).rst = false := rfl
@[simp] theorem State.latchNow_host (s : State) (w : Word) : (s.latchNow w).host = s.host := rfl
@[simp] theorem State.latchNow_reads (s : State) (w : Word) : (s.latchNow w).reads = s.reads := rfl
@[simp] theorem State.latchNow_wait (s : State) (w : Word) : (s.latchNow w).wait = 0 := rfl
@[simp] theorem State.latchNow_free (s : State) (w : Word) : (s.latchNow w).free = s.free := rfl

/-! ### A write dropped while BUSY (20_memory R66) -/

@[simp] theorem State.dropWrite_params (s : State) : (s.dropWrite).params = s.params := rfl
@[simp] theorem State.dropWrite_busy (s : State) : (s.dropWrite).busy = s.busy := rfl
@[simp] theorem State.dropWrite_done (s : State) : (s.dropWrite).done = s.done := rfl
@[simp] theorem State.dropWrite_configured (s : State) : (s.dropWrite).configured = s.configured := rfl
@[simp] theorem State.dropWrite_ovr (s : State) : (s.dropWrite).ovr = true := rfl
@[simp] theorem State.dropWrite_code (s : State) : (s.dropWrite).code = s.code := rfl
@[simp] theorem State.dropWrite_ie (s : State) : (s.dropWrite).ie = s.ie := rfl
@[simp] theorem State.dropWrite_pending (s : State) : (s.dropWrite).pending = s.pending := rfl
@[simp] theorem State.dropWrite_cfgN (s : State) : (s.dropWrite).cfgN = s.cfgN := rfl
@[simp] theorem State.dropWrite_cfgK (s : State) : (s.dropWrite).cfgK = s.cfgK := rfl
@[simp] theorem State.dropWrite_cfg (s : State) : (s.dropWrite).cfg = s.cfg := rfl
@[simp] theorem State.dropWrite_exp (s : State) : (s.dropWrite).exp = s.exp := rfl
@[simp] theorem State.dropWrite_log (s : State) : (s.dropWrite).log = s.log := rfl
@[simp] theorem State.dropWrite_opA (s : State) : (s.dropWrite).opA = s.opA := rfl
@[simp] theorem State.dropWrite_opB (s : State) : (s.dropWrite).opB = s.opB := rfl
@[simp] theorem State.dropWrite_result (s : State) : (s.dropWrite).result = s.result := rfl
@[simp] theorem State.dropWrite_lenIn (s : State) : (s.dropWrite).lenIn = s.lenIn := rfl
@[simp] theorem State.dropWrite_lenOut (s : State) : (s.dropWrite).lenOut = s.lenOut := rfl
@[simp] theorem State.dropWrite_lenWork (s : State) : (s.dropWrite).lenWork = s.lenWork := rfl
@[simp] theorem State.dropWrite_lenSyn (s : State) : (s.dropWrite).lenSyn = s.lenSyn := rfl
@[simp] theorem State.dropWrite_lenFsyn (s : State) : (s.dropWrite).lenFsyn = s.lenFsyn := rfl
@[simp] theorem State.dropWrite_lenLoc (s : State) : (s.dropWrite).lenLoc = s.lenLoc := rfl
@[simp] theorem State.dropWrite_numEra (s : State) : (s.dropWrite).numEra = s.numEra := rfl
@[simp] theorem State.dropWrite_numErrpos (s : State) : (s.dropWrite).numErrpos = s.numErrpos := rfl
@[simp] theorem State.dropWrite_lenGen (s : State) : (s.dropWrite).lenGen = s.lenGen := rfl
@[simp] theorem State.dropWrite_lenA (s : State) : (s.dropWrite).lenA = s.lenA := rfl
@[simp] theorem State.dropWrite_lenB (s : State) : (s.dropWrite).lenB = s.lenB := rfl
@[simp] theorem State.dropWrite_lenR (s : State) : (s.dropWrite).lenR = s.lenR := rfl
@[simp] theorem State.dropWrite_mem (s : State) : (s.dropWrite).mem = s.mem := rfl
@[simp] theorem State.dropWrite_rst (s : State) : (s.dropWrite).rst = s.rst := rfl
@[simp] theorem State.dropWrite_host (s : State) : (s.dropWrite).host = s.host := rfl
@[simp] theorem State.dropWrite_reads (s : State) : (s.dropWrite).reads = s.reads := rfl
@[simp] theorem State.dropWrite_wait (s : State) : (s.dropWrite).wait = s.wait := rfl
@[simp] theorem State.dropWrite_free (s : State) : (s.dropWrite).free = s.free := rfl

/-! ### The record of a host read -/

@[simp] theorem State.record_params (s : State) (a : Nat) (v : Word) (use : ReadUse) : (s.record a v use).params = s.params := rfl
@[simp] theorem State.record_busy (s : State) (a : Nat) (v : Word) (use : ReadUse) : (s.record a v use).busy = s.busy := rfl
@[simp] theorem State.record_done (s : State) (a : Nat) (v : Word) (use : ReadUse) : (s.record a v use).done = s.done := rfl
@[simp] theorem State.record_configured (s : State) (a : Nat) (v : Word) (use : ReadUse) : (s.record a v use).configured = s.configured := rfl
@[simp] theorem State.record_ovr (s : State) (a : Nat) (v : Word) (use : ReadUse) : (s.record a v use).ovr = s.ovr := rfl
@[simp] theorem State.record_code (s : State) (a : Nat) (v : Word) (use : ReadUse) : (s.record a v use).code = s.code := rfl
@[simp] theorem State.record_ie (s : State) (a : Nat) (v : Word) (use : ReadUse) : (s.record a v use).ie = s.ie := rfl
@[simp] theorem State.record_pending (s : State) (a : Nat) (v : Word) (use : ReadUse) : (s.record a v use).pending = s.pending := rfl
@[simp] theorem State.record_cfgN (s : State) (a : Nat) (v : Word) (use : ReadUse) : (s.record a v use).cfgN = s.cfgN := rfl
@[simp] theorem State.record_cfgK (s : State) (a : Nat) (v : Word) (use : ReadUse) : (s.record a v use).cfgK = s.cfgK := rfl
@[simp] theorem State.record_cfg (s : State) (a : Nat) (v : Word) (use : ReadUse) : (s.record a v use).cfg = s.cfg := rfl
@[simp] theorem State.record_exp (s : State) (a : Nat) (v : Word) (use : ReadUse) : (s.record a v use).exp = s.exp := rfl
@[simp] theorem State.record_log (s : State) (a : Nat) (v : Word) (use : ReadUse) : (s.record a v use).log = s.log := rfl
@[simp] theorem State.record_opA (s : State) (a : Nat) (v : Word) (use : ReadUse) : (s.record a v use).opA = s.opA := rfl
@[simp] theorem State.record_opB (s : State) (a : Nat) (v : Word) (use : ReadUse) : (s.record a v use).opB = s.opB := rfl
@[simp] theorem State.record_result (s : State) (a : Nat) (v : Word) (use : ReadUse) : (s.record a v use).result = s.result := rfl
@[simp] theorem State.record_lenIn (s : State) (a : Nat) (v : Word) (use : ReadUse) : (s.record a v use).lenIn = s.lenIn := rfl
@[simp] theorem State.record_lenOut (s : State) (a : Nat) (v : Word) (use : ReadUse) : (s.record a v use).lenOut = s.lenOut := rfl
@[simp] theorem State.record_lenWork (s : State) (a : Nat) (v : Word) (use : ReadUse) : (s.record a v use).lenWork = s.lenWork := rfl
@[simp] theorem State.record_lenSyn (s : State) (a : Nat) (v : Word) (use : ReadUse) : (s.record a v use).lenSyn = s.lenSyn := rfl
@[simp] theorem State.record_lenFsyn (s : State) (a : Nat) (v : Word) (use : ReadUse) : (s.record a v use).lenFsyn = s.lenFsyn := rfl
@[simp] theorem State.record_lenLoc (s : State) (a : Nat) (v : Word) (use : ReadUse) : (s.record a v use).lenLoc = s.lenLoc := rfl
@[simp] theorem State.record_numEra (s : State) (a : Nat) (v : Word) (use : ReadUse) : (s.record a v use).numEra = s.numEra := rfl
@[simp] theorem State.record_numErrpos (s : State) (a : Nat) (v : Word) (use : ReadUse) : (s.record a v use).numErrpos = s.numErrpos := rfl
@[simp] theorem State.record_lenGen (s : State) (a : Nat) (v : Word) (use : ReadUse) : (s.record a v use).lenGen = s.lenGen := rfl
@[simp] theorem State.record_lenA (s : State) (a : Nat) (v : Word) (use : ReadUse) : (s.record a v use).lenA = s.lenA := rfl
@[simp] theorem State.record_lenB (s : State) (a : Nat) (v : Word) (use : ReadUse) : (s.record a v use).lenB = s.lenB := rfl
@[simp] theorem State.record_lenR (s : State) (a : Nat) (v : Word) (use : ReadUse) : (s.record a v use).lenR = s.lenR := rfl
@[simp] theorem State.record_mem (s : State) (a : Nat) (v : Word) (use : ReadUse) : (s.record a v use).mem = s.mem := rfl
@[simp] theorem State.record_rst (s : State) (a : Nat) (v : Word) (use : ReadUse) : (s.record a v use).rst = s.rst := rfl
@[simp] theorem State.record_host (s : State) (a : Nat) (v : Word) (use : ReadUse) : (s.record a v use).host = s.host := rfl
@[simp] theorem State.record_reads (s : State) (a : Nat) (v : Word) (use : ReadUse) : (s.record a v use).reads = { addr := a, value := v, use := use } :: s.reads := rfl
@[simp] theorem State.record_wait (s : State) (a : Nat) (v : Word) (use : ReadUse) : (s.record a v use).wait = s.wait := rfl
@[simp] theorem State.record_free (s : State) (a : Nat) (v : Word) (use : ReadUse) : (s.record a v use).free = s.free := rfl

/-- A read into a host variable sets that variable (R97). -/
@[simp] theorem State.hostVar?_record_bind (s : State) (a : Nat) (v : Word) (name : String) :
    (s.record a v (.bind name)).hostVar? name = some v := by
  simp [State.hostVar?, State.record]

/-- Any other read leaves a host variable alone. -/
theorem State.hostVar?_record_other (s : State) (a : Nat) (v : Word) {use : ReadUse} {name : String}
    (h : use ≠ .bind name) : (s.record a v use).hostVar? name = s.hostVar? name := by
  simp [State.hostVar?, State.record, h]

/-! ### The write of a decoded message (45_correction R223) -/

@[simp] theorem writeMessage_params (s : State) (L : Nat) (w : List Nat) :
    (writeMessage s L w).params = s.params := rfl
@[simp] theorem writeMessage_busy (s : State) (L : Nat) (w : List Nat) :
    (writeMessage s L w).busy = s.busy := rfl
@[simp] theorem writeMessage_done (s : State) (L : Nat) (w : List Nat) :
    (writeMessage s L w).done = s.done := rfl
@[simp] theorem writeMessage_configured (s : State) (L : Nat) (w : List Nat) :
    (writeMessage s L w).configured = s.configured := rfl
@[simp] theorem writeMessage_ovr (s : State) (L : Nat) (w : List Nat) :
    (writeMessage s L w).ovr = s.ovr := rfl
@[simp] theorem writeMessage_code (s : State) (L : Nat) (w : List Nat) :
    (writeMessage s L w).code = s.code := rfl
@[simp] theorem writeMessage_ie (s : State) (L : Nat) (w : List Nat) :
    (writeMessage s L w).ie = s.ie := rfl
@[simp] theorem writeMessage_pending (s : State) (L : Nat) (w : List Nat) :
    (writeMessage s L w).pending = s.pending := rfl
@[simp] theorem writeMessage_cfgN (s : State) (L : Nat) (w : List Nat) :
    (writeMessage s L w).cfgN = s.cfgN := rfl
@[simp] theorem writeMessage_cfgK (s : State) (L : Nat) (w : List Nat) :
    (writeMessage s L w).cfgK = s.cfgK := rfl
@[simp] theorem writeMessage_cfg (s : State) (L : Nat) (w : List Nat) :
    (writeMessage s L w).cfg = s.cfg := rfl
@[simp] theorem writeMessage_exp (s : State) (L : Nat) (w : List Nat) :
    (writeMessage s L w).exp = s.exp := rfl
@[simp] theorem writeMessage_log (s : State) (L : Nat) (w : List Nat) :
    (writeMessage s L w).log = s.log := rfl
@[simp] theorem writeMessage_opA (s : State) (L : Nat) (w : List Nat) :
    (writeMessage s L w).opA = s.opA := rfl
@[simp] theorem writeMessage_opB (s : State) (L : Nat) (w : List Nat) :
    (writeMessage s L w).opB = s.opB := rfl
@[simp] theorem writeMessage_result (s : State) (L : Nat) (w : List Nat) :
    (writeMessage s L w).result = s.result := rfl
@[simp] theorem writeMessage_lenIn (s : State) (L : Nat) (w : List Nat) :
    (writeMessage s L w).lenIn = s.lenIn := rfl
@[simp] theorem writeMessage_lenOut (s : State) (L : Nat) (w : List Nat) :
    (writeMessage s L w).lenOut = zext32 (L - s.cfg.nsym) := rfl
@[simp] theorem writeMessage_lenWork (s : State) (L : Nat) (w : List Nat) :
    (writeMessage s L w).lenWork = s.lenWork := rfl
@[simp] theorem writeMessage_lenSyn (s : State) (L : Nat) (w : List Nat) :
    (writeMessage s L w).lenSyn = s.lenSyn := rfl
@[simp] theorem writeMessage_lenFsyn (s : State) (L : Nat) (w : List Nat) :
    (writeMessage s L w).lenFsyn = s.lenFsyn := rfl
@[simp] theorem writeMessage_lenLoc (s : State) (L : Nat) (w : List Nat) :
    (writeMessage s L w).lenLoc = s.lenLoc := rfl
@[simp] theorem writeMessage_numEra (s : State) (L : Nat) (w : List Nat) :
    (writeMessage s L w).numEra = s.numEra := rfl
@[simp] theorem writeMessage_numErrpos (s : State) (L : Nat) (w : List Nat) :
    (writeMessage s L w).numErrpos = s.numErrpos := rfl
@[simp] theorem writeMessage_lenGen (s : State) (L : Nat) (w : List Nat) :
    (writeMessage s L w).lenGen = s.lenGen := rfl
@[simp] theorem writeMessage_lenA (s : State) (L : Nat) (w : List Nat) :
    (writeMessage s L w).lenA = s.lenA := rfl
@[simp] theorem writeMessage_lenB (s : State) (L : Nat) (w : List Nat) :
    (writeMessage s L w).lenB = s.lenB := rfl
@[simp] theorem writeMessage_lenR (s : State) (L : Nat) (w : List Nat) :
    (writeMessage s L w).lenR = s.lenR := rfl
@[simp] theorem writeMessage_mem (s : State) (L : Nat) (w : List Nat) :
    (writeMessage s L w).mem = s.mem.store .out (w.take (L - s.cfg.nsym)) := rfl
@[simp] theorem writeMessage_rst (s : State) (L : Nat) (w : List Nat) :
    (writeMessage s L w).rst = s.rst := rfl
@[simp] theorem writeMessage_host (s : State) (L : Nat) (w : List Nat) :
    (writeMessage s L w).host = s.host := rfl
@[simp] theorem writeMessage_reads (s : State) (L : Nat) (w : List Nat) :
    (writeMessage s L w).reads = s.reads := rfl
@[simp] theorem writeMessage_wait (s : State) (L : Nat) (w : List Nat) :
    (writeMessage s L w).wait = s.wait := rfl
@[simp] theorem writeMessage_free (s : State) (L : Nat) (w : List Nat) :
    (writeMessage s L w).free = s.free := rfl

/-! ### Completion and the field -/

@[simp] theorem State.finish_finish (s : State) (c d : StatusCode) : (s.finish c).finish d = s.finish d := rfl

@[simp] theorem State.finish_field (s : State) (c : StatusCode) : (s.finish c).field = s.field := rfl

end Sys2Proof.Machine
end

