-- ==== Sys2Proof/Laws/Ops.lean ====
section
/-! SUPPORT. What the shared operations can do: the checks, the shape of a command, DECODE's stages, and the loop. -/

namespace Sys2Proof.Machine

/-! ### Checks -/

theorem failIf_pos {p : Prop} [Decidable p] (h : p) (c : StatusCode) : failIf p c = .error (.fail c) := if_pos h

theorem failIf_neg {p : Prop} [Decidable p] (h : ¬p) (c : StatusCode) : failIf p c = .ok () := if_neg h

@[simp] theorem failIf_bind {α : Type} (p : Prop) [Decidable p] (c : StatusCode) (k : Unit → Except Stop α) :
    (failIf p c >>= k) = if p then .error (.fail c) else k () := by
  unfold failIf; split <;> rfl

theorem failIf_eq_ok {p : Prop} [Decidable p] {c : StatusCode} {u : Unit} : failIf p c = .ok u ↔ ¬p := by
  unfold failIf; split <;> simp_all

@[simp] theorem ok_bind {α β : Type} (a : α) (k : α → Except Stop β) :
    ((.ok a : Except Stop α) >>= k) = k a := rfl

@[simp] theorem error_bind {α β : Type} (e : Stop) (k : α → Except Stop β) :
    ((.error e : Except Stop α) >>= k) = .error e := rfl

@[simp] theorem pure_eq_ok {α : Type} (a : α) : (pure a : Except Stop α) = .ok a := rfl

/-- Peel one line of pseudocode: a sequence that ends well ran its first part well. -/
theorem bind_eq_ok {α β : Type} {x : Except Stop α} {k : α → Except Stop β} {b : β} :
    (x >>= k) = .ok b ↔ ∃ a, x = .ok a ∧ k a = .ok b := by
  cases x with
  | error e => simp
  | ok a => simp

theorem bind_eq_error {α β : Type} {x : Except Stop α} {k : α → Except Stop β} {e : Stop} :
    (x >>= k) = .error e ↔ x = .error e ∨ ∃ a, x = .ok a ∧ k a = .error e := by
  cases x with
  | error e => simp
  | ok a => simp

/-! ### The shape of a command -/

theorem command_of_ok {s t : State} {body : State → Except Stop State} (h : body s = .ok t) :
    command s body = .next (t.finish .ok) := by simp [command, h]

theorem command_of_fail {s : State} {body : State → Except Stop State} {c : StatusCode}
    (h : body s = .error (.fail c)) : command s body = .next (s.finish c) := by simp [command, h]

theorem command_of_fault {s : State} {body : State → Except Stop State} {f : Fault}
    (h : body s = .error (.fault f)) : command s body = .fault f := by simp [command, h]

/-- Everything a command that goes on can do: its pseudocode ended well and its writes are kept, or it
failed and only STATUS changed. -/
theorem command_cases {s t : State} {body : State → Except Stop State} (h : command s body = .next t) :
    (∃ u, body s = .ok u ∧ t = u.finish .ok) ∨ (∃ c, body s = .error (.fail c) ∧ t = s.finish c) := by
  unfold command at h
  split at h
  · exact .inl ⟨_, ‹_›, by simpa using h.symm⟩
  · exact .inr ⟨_, ‹_›, by simpa using h.symm⟩
  · simp at h

theorem command_eq_fault {s : State} {body : State → Except Stop State} {f : Fault} :
    command s body = .fault f ↔ body s = .error (.fault f) := by
  unfold command; split <;> simp_all

theorem command_ne_refused (s : State) (body : State → Except Stop State) (r : Refusal) :
    command s body ≠ .refused r := by
  unfold command; split <;> simp

theorem configuredCommand_of_configured {s : State} (h : s.configured = true)
    (body : State → Except Stop State) : configuredCommand s body = command s body := by
  simp [configuredCommand, command, needConfigured, h]

theorem configuredCommand_of_unconfigured {s : State} (h : s.configured = false)
    (body : State → Except Stop State) : configuredCommand s body = .next (s.finish .notConfigured) := by
  simp [configuredCommand, command, needConfigured, h]

/-- Everything a command behind the NOT_CONFIGURED check can do when it goes on. -/
theorem configuredCommand_cases {s t : State} {body : State → Except Stop State}
    (h : configuredCommand s body = .next t) :
    (s.configured = true ∧ ∃ u, body s = .ok u ∧ t = u.finish .ok) ∨ (∃ c, t = s.finish c) := by
  cases hc : s.configured with
  | false =>
    rw [configuredCommand_of_unconfigured hc] at h
    exact .inr ⟨_, by simpa using h.symm⟩
  | true =>
    rw [configuredCommand_of_configured hc] at h
    rcases command_cases h with ⟨u, hu, rfl⟩ | ⟨c, -, rfl⟩
    · exact .inl ⟨rfl, u, hu, rfl⟩
    · exact .inr ⟨c, rfl⟩

theorem configuredCommand_ne_refused (s : State) (body : State → Except Stop State) (r : Refusal) :
    configuredCommand s body ≠ .refused r := command_ne_refused s _ r

/-! ### DECODE's stages -/

theorem runStage_of_ok {stage : State → Except Stop State} {s t : State} (h : stage s = .ok t)
    (rest : State → Result) : runStage stage s rest = rest t := by simp [runStage, h]

theorem runStage_of_fail {stage : State → Except Stop State} {s : State} {c : StatusCode}
    (h : stage s = .error (.fail c)) (rest : State → Result) :
    runStage stage s rest = .next (s.finish c) := by simp [runStage, h]

theorem runStage_of_fault {stage : State → Except Stop State} {s : State} {f : Fault}
    (h : stage s = .error (.fault f)) (rest : State → Result) :
    runStage stage s rest = .fault f := by simp [runStage, h]

/-- Everything a stage and what follows it can do when the machine goes on. -/
theorem runStage_cases {stage : State → Except Stop State} {s t : State} {rest : State → Result}
    (h : runStage stage s rest = .next t) :
    (∃ u, stage s = .ok u ∧ rest u = .next t) ∨ (∃ c, stage s = .error (.fail c) ∧ t = s.finish c) := by
  unfold runStage at h
  split at h
  · exact .inl ⟨_, ‹_›, h⟩
  · exact .inr ⟨_, ‹_›, by simpa using h.symm⟩
  · simp at h

/-! ### The loop -/

theorem repeatUpFrom_induct {α : Type} {P : Nat → α → Prop} {body : Nat → α → α} (k : Nat) {lo : Nat} {x : α}
    (h0 : P lo x) (hs : ∀ i y, lo ≤ i → i < lo + k → P i y → P (i + 1) (body i y)) :
    P (lo + k) (repeatUpFrom body lo k x) := by
  induction k generalizing lo x with
  | zero => exact h0
  | succ k ih =>
    have := ih (lo := lo + 1) (x := body lo x) (hs lo x (Nat.le_refl _) (by omega) h0)
      (fun i y h1 h2 hP => hs i y (by omega) (by omega) hP)
    rwa [show lo + 1 + k = lo + (k + 1) by omega] at this

/-- The loop rule: a property that holds at the start and that every round keeps holds at the end. -/
theorem repeatUp_induct {α : Type} {P : Nat → α → Prop} {body : Nat → α → α} {lo hi : Nat} {x : α}
    (hle : lo ≤ hi) (h0 : P lo x) (hs : ∀ i y, lo ≤ i → i < hi → P i y → P (i + 1) (body i y)) :
    P hi (repeatUp lo hi x body) := by
  have := repeatUpFrom_induct (P := P) (body := body) (hi - lo) h0
    (fun i y h1 h2 hP => hs i y h1 (by omega) hP)
  rwa [show lo + (hi - lo) = hi by omega] at this

/-- A loop that keeps a property of its value. -/
theorem repeatUp_invariant {α : Type} {P : α → Prop} {body : Nat → α → α} {lo hi : Nat} {x : α}
    (h0 : P x) (hs : ∀ i y, lo ≤ i → i < hi → P y → P (body i y)) : P (repeatUp lo hi x body) := by
  by_cases hle : lo ≤ hi
  · exact repeatUp_induct (P := fun _ => P) hle h0 hs
  · have : hi - lo = 0 := by omega
    simpa [repeatUp, this, repeatUpFrom] using h0

/-- The last round of a loop stands outermost. -/
theorem repeatUpFrom_succ_last {α : Type} (body : Nat → α → α) (i k : Nat) (x : α) :
    repeatUpFrom body i (k + 1) x = body (i + k) (repeatUpFrom body i k x) := by
  induction k generalizing i x with
  | zero => rfl
  | succ k ih => rw [repeatUpFrom, ih, repeatUpFrom, show i + 1 + k = i + (k + 1) by omega]

theorem repeatUp_succ {α : Type} (body : Nat → α → α) (k : Nat) (x : α) :
    repeatUp 0 (k + 1) x body = body k (repeatUp 0 k x body) := by
  simpa [repeatUp] using repeatUpFrom_succ_last body 0 k x

@[simp] theorem zeros_length (L : Nat) : (zeros L).length = L := by simp [zeros]

@[simp] theorem xorAt_length (out : List Nat) (k v : Nat) : (xorAt out k v).length = out.length := by
  simp [xorAt]

theorem xorAt_getD (out : List Nat) (a v k : Nat) (hk : k < out.length) :
    (xorAt out a v).getD k 0 = if k = a then out.getD k 0 ^^^ v else out.getD k 0 := by
  simp only [xorAt, List.getD, List.getElem?_modify]
  by_cases h : a = k
  · subst h; simp [hk]
  · simp [h, Ne.symm h]

end Sys2Proof.Machine
end

