-- ==== Sys2Proof/Laws/Operands.lean ====
section
/-! SUPPORT. The operand reads (40_field_engine R111): when they succeed and what they give, when they fail. -/

namespace Sys2Proof.Machine

/-! ### Entry fields -/

/-- What an engine write of `v` to a buffer reads back as: the low 16 bits (R38, R39). -/
theorem symField_symWord (b : Buf) (v : Nat) : symField (symWord v &&& b.mask) = v % 65536 := by
  have h : (symWord v &&& b.mask).extractLsb' 0 16 = BitVec.ofNat 16 v := by
    apply BitVec.eq_of_getLsbD_eq
    intro i hi
    have hm : b.mask.getLsbD i = true := by
      cases b <;> simp only [Buf.mask] <;> interval_cases i <;> rfl
    simp [symWord, hi, hm, show i < 32 by omega]
  simp [symField, h]

theorem symField_lt (w : Word) : symField w < 65536 := (w.extractLsb' 0 16).isLt

theorem zext32_toNat {n : Nat} (h : n < 2 ^ 32) : (zext32 n).toNat = n := by
  simp only [zext32, BitVec.toNat_ofNat, Nat.mod_eq_of_lt h]

theorem zext32_word (w : Word) : zext32 w.toNat = w := by simp [zext32]

/-! ### Reading a range -/

theorem readRange_length {α : Type} {rd : Nat → Except Stop α} {i k : Nat} {vs : List α}
    (h : readRange rd i k = .ok vs) : vs.length = k := by
  induction k generalizing i vs with
  | zero => simp [readRange] at h; simp [← h]
  | succ k ih =>
    simp only [readRange, bind_eq_ok] at h
    obtain ⟨v, -, ws, hw, h⟩ := h
    simp at h
    simp [← h, ih hw]

/-- A range read that succeeds read every element. -/
theorem readRange_getElem {α : Type} {rd : Nat → Except Stop α} {i k j : Nat} {vs : List α}
    (h : readRange rd i k = .ok vs) (hj : j < vs.length) : rd (i + j) = .ok vs[j] := by
  induction k generalizing i j vs with
  | zero => simp [readRange] at h; subst h; simp at hj
  | succ k ih =>
    simp only [readRange, bind_eq_ok] at h
    obtain ⟨v, hv, ws, hw, h⟩ := h
    simp at h
    subst h
    cases j with
    | zero => simpa using hv
    | succ j =>
      have := ih hw (j := j) (by simpa using hj)
      simpa [show i + 1 + j = i + (j + 1) by omega] using this

theorem readRange_of_all {α : Type} {rd : Nat → Except Stop α} {g : Nat → α} {i k : Nat}
    (h : ∀ j < k, rd (i + j) = .ok (g (i + j))) :
    readRange rd i k = .ok ((List.range' i k).map g) := by
  induction k generalizing i with
  | zero => rfl
  | succ k ih =>
    have h0 := h 0 (by omega)
    have hs := ih (i := i + 1) fun j hj => by
      have := h (j + 1) (by omega)
      rwa [show i + (j + 1) = i + 1 + j by omega] at this
    simp only [Nat.add_zero] at h0
    simp [readRange, h0, hs, List.range'_succ]

/-- A range read stops at the first element that fails. -/
theorem readRange_of_first_error {α : Type} {rd : Nat → Except Stop α} {g : Nat → α} {i k j : Nat} {e : Stop}
    (hj : j < k) (hlow : ∀ l < j, rd (i + l) = .ok (g (i + l))) (he : rd (i + j) = .error e) :
    readRange rd i k = .error e := by
  induction k generalizing i j with
  | zero => omega
  | succ k ih =>
    cases j with
    | zero => simp only [Nat.add_zero] at he; simp [readRange, he]
    | succ j =>
      have h0 := hlow 0 (by omega)
      simp only [Nat.add_zero] at h0
      have := ih (i := i + 1) (j := j) (by omega)
        (fun l hl => by
          have := hlow (l + 1) (by omega)
          rwa [show i + (l + 1) = i + 1 + l by omega] at this)
        (by rwa [show i + 1 + j = i + (j + 1) by omega])
      simp [readRange, h0, this]

/-- A range read that fails failed at some element. -/
theorem readRange_eq_error {α : Type} {rd : Nat → Except Stop α} {i k : Nat} {e : Stop}
    (h : readRange rd i k = .error e) : ∃ j < k, rd (i + j) = .error e := by
  induction k generalizing i with
  | zero => simp [readRange] at h
  | succ k ih =>
    simp only [readRange, bind_eq_error] at h
    rcases h with h | ⟨v, -, h⟩
    · exact ⟨0, by omega, by simpa using h⟩
    · rcases h with h | ⟨ws, -, h⟩
      · obtain ⟨j, hj, hr⟩ := ih h
        exact ⟨j + 1, by omega, by rwa [show i + (j + 1) = i + 1 + j by omega]⟩
      · simp at h

/-! ### Readiness -/

theorem readEntry_of_written {s : State} {b : Buf} {L i : Nat} (h : s.Written b L) (hi : i < L) :
    readEntry s b i = .ok ((s.mem.entry? b i).getD 0) := by
  have := h i hi
  unfold readEntry
  cases he : s.mem.entry? b i with
  | none => simp [he] at this
  | some w => rfl

theorem readSym_of_ready {s : State} {b : Buf} {L i : Nat} (h : s.SymsReady b L) (hi : i < L) :
    readSym s b i = .ok (s.symAt b i) := by
  have hq := h.2 i hi
  simp only [readSym, readEntry_of_written h.1 hi, ok_bind, failIf_bind]
  rw [if_neg (by simpa [State.symAt] using hq)]
  rfl

/-- `read_syms` of ready entries gives their symbols (R111). -/
theorem readSyms_of_ready {s : State} {b : Buf} {L : Nat} (h : s.SymsReady b L) :
    readSyms s b L = .ok (s.symsOf b L) := by
  rw [readSyms, readRange_of_all (g := s.symAt b)]
  · simp [State.symsOf, List.range_eq_range']
  · intro j hj; simpa using readSym_of_ready h hj

theorem readPositions_of_ready {s : State} {b : Buf} {L limit : Nat} (h : s.PositionsReady b L limit) :
    readPositions s limit b L = .ok (s.symsOf b L) := by
  rw [readPositions, readRange_of_all (g := s.symAt b)]
  · simp [State.symsOf, List.range_eq_range']
  · intro j hj
    have hq := h.2 j hj
    simp only [Nat.zero_add, readPos, readEntry_of_written h.1 hj, ok_bind, failIf_bind]
    rw [if_neg (by simpa [State.symAt] using hq)]
    rfl

theorem readMessage_of_ready {s : State} {L : Nat} (h : s.MessageReady L) :
    readRange (readMessageSym s) 0 L = .ok (s.symsOf .inp L) := by
  rw [readRange_of_all (g := s.symAt .inp)]
  · simp [State.symsOf, List.range_eq_range']
  · intro j hj
    have hq := h.1.2 j hj
    have he := h.2 j hj
    simp only [Nat.zero_add, readMessageSym, readIn, readEntry_of_written h.1.1 hj, ok_bind, failIf_bind,
      pure_eq_ok]
    rw [if_neg (by simpa [State.erasedAt] using he), if_neg (by simpa [State.symAt] using hq)]
    rfl

theorem readReceived_of_ready {s : State} {L : Nat} (h : s.ReceivedReady L) :
    readRange (readReceived s) 0 L = .ok (s.receivedOf L) := by
  rw [readRange_of_all (g := fun i => if s.erasedAt i then none else some (s.symAt .inp i))]
  · simp [State.receivedOf, List.range_eq_range']
  · intro j hj
    have hq := h.2 j hj
    simp only [Nat.zero_add, readReceived, readIn, readEntry_of_written h.1 hj, ok_bind, pure_eq_ok]
    cases he : s.erasedAt j with
    | true => simp [State.erasedAt] at he; simp [he]
    | false =>
      have hq := hq he
      simp only [State.erasedAt] at he
      simp only [he, Bool.false_eq_true, if_false, failIf_bind]
      rw [if_neg (by simpa [State.symAt] using hq)]
      rfl

/-- The symbols an engine write leaves: what was written, if it fits 16 bits (R38). -/
theorem symAt_store (s : State) (b : Buf) (vs : List Nat) {i : Nat} (hi : i < vs.length) :
    ({ s with mem := s.mem.store b vs } : State).symAt b i = vs.getD i 0 % 65536 := by
  simp [State.symAt, Memory.entry?_store_same _ _ _ hi, symField_symWord]

end Sys2Proof.Machine
end

