-- ==== Sys2Proof/Laws/PerInstr.lean ====
section
/-! SUPPORT. Statements made once per command. -/

namespace Sys2Proof.Laws.EncodingFits

/-- A command's word has RSVD = 0 (30_encoding R90), its OPCODE is looked up back to it (R92), and its byte
lanes decode to it (20_memory R61). -/
def Statement (i : Instr) : Prop :=
  i.wellFormed = true ∧ rsvdField (Sys2Proof.encode i) = 0 ∧ Instr.ofOpcode? i.opcode = some i ∧
    decodeBytes (encodeBytes i) = .ok (i, [])

theorem nop : Statement .nop := ⟨rfl, rfl, rfl, rfl⟩
theorem configure : Statement .configure := ⟨rfl, rfl, rfl, rfl⟩
theorem gfMul : Statement .gfMul := ⟨rfl, rfl, rfl, rfl⟩
theorem gfDiv : Statement .gfDiv := ⟨rfl, rfl, rfl, rfl⟩
theorem gfExp : Statement .gfExp := ⟨rfl, rfl, rfl, rfl⟩
theorem gfLog : Statement .gfLog := ⟨rfl, rfl, rfl, rfl⟩
theorem polyScale : Statement .polyScale := ⟨rfl, rfl, rfl, rfl⟩
theorem polyAdd : Statement .polyAdd := ⟨rfl, rfl, rfl, rfl⟩
theorem polyMul : Statement .polyMul := ⟨rfl, rfl, rfl, rfl⟩
theorem polyEval : Statement .polyEval := ⟨rfl, rfl, rfl, rfl⟩
theorem genPoly : Statement .genPoly := ⟨rfl, rfl, rfl, rfl⟩
theorem encode : Statement .encode := ⟨rfl, rfl, rfl, rfl⟩
theorem load : Statement .load := ⟨rfl, rfl, rfl, rfl⟩
theorem syndrome : Statement .syndrome := ⟨rfl, rfl, rfl, rfl⟩
theorem forneySyn : Statement .forneySyn := ⟨rfl, rfl, rfl, rfl⟩
theorem bm : Statement .bm := ⟨rfl, rfl, rfl, rfl⟩
theorem chien : Statement .chien := ⟨rfl, rfl, rfl, rfl⟩
theorem correct : Statement .correct := ⟨rfl, rfl, rfl, rfl⟩
theorem verify : Statement .verify := ⟨rfl, rfl, rfl, rfl⟩
theorem decode : Statement .decode := ⟨rfl, rfl, rfl, rfl⟩

end Sys2Proof.Laws.EncodingFits
end

