-- ==== Sys2Proof/Laws/Poly.lean ====
section
/-! SUPPORT. What the tables hold, and lengths of the tables, the polynomial functions, the encoder and the decoder's functions. -/

namespace Sys2Proof.Machine

/-! ### Tables (40_field_engine R113) -/

@[simp] theorem powersFrom_length (q prim k x : Nat) : (powersFrom q prim k x).length = k := by
  induction k generalizing x with
  | zero => rfl
  | succ k ih => simp [powersFrom, ih]

@[simp] theorem expTable_length (n q prim : Nat) : (expTable n q prim).length = 2 * n := by
  simp [expTable]; omega

@[simp] theorem logFill_length (log : List Nat) (i : Nat) (xs : List Nat) :
    (logFill log i xs).length = log.length := by
  induction xs generalizing log i with
  | nil => rfl
  | cons x xs ih => rw [logFill, ih]; split <;> simp

@[simp] theorem logTable_length (n q prim : Nat) : (logTable n q prim).length = q := by simp [logTable]

/-- A value that no power takes keeps its LOG entry. -/
theorem logFill_getD_of_absent {x : Nat} (log : List Nat) (i : Nat) (xs : List Nat) (h : ∀ v ∈ xs, v ≠ x) :
    (logFill log i xs).getD x 0 = log.getD x 0 := by
  induction xs generalizing log i with
  | nil => rfl
  | cons y ys ih =>
    rw [logFill, ih _ _ fun v hv => h v (by simp [hv])]
    have := h y (by simp)
    split <;> simp [List.getD, this]

/-- LOG[0] is never written (R32). -/
@[simp] theorem logFill_getD_zero (log : List Nat) (i : Nat) (xs : List Nat) :
    (logFill log i xs).getD 0 0 = log.getD 0 0 := by
  induction xs generalizing log i with
  | nil => rfl
  | cons y ys ih =>
    rw [logFill, ih]
    split
    · rfl
    · simp [List.getD, *]

/-- LOG[0] is 0 under every constant (R32). -/
@[simp] theorem logTable_getD_zero (n q prim : Nat) : (logTable n q prim).getD 0 0 = 0 := by
  rw [logTable, logFill_getD_zero]
  cases q <;> simp [zeros, List.replicate]

/-- LOG holds the last index that a nonzero value has among the powers. -/
theorem logFill_getD_last {x : Nat} (log : List Nat) (i : Nat) (xs : List Nat) (h0 : x ≠ 0) (hx : x < log.length) (k : Nat)
    (hk : k < xs.length) (he : xs.getD k 0 = x) (hl : ∀ j < xs.length, k < j → xs.getD j 0 ≠ x) :
    (logFill log i xs).getD x 0 = i + k := by
  induction xs generalizing log i k with
  | nil => simp at hk
  | cons y ys ih =>
    rw [logFill]
    cases k with
    | zero =>
      rw [logFill_getD_of_absent]
      · simp at he; subst he; simp [List.getD, hx, h0]
      · intro v hv
        obtain ⟨j, hj, rfl⟩ := List.getElem_of_mem hv
        have := hl (j + 1) (by simpa using hj) (by omega)
        simpa [List.getD, hj] using this
    | succ k =>
      rw [ih _ _ (by split <;> simpa using hx) k (by simpa using hk) (by simpa using he)]
      · omega
      · intro j hj hkj
        simpa using hl (j + 1) (by simpa using hj) (by omega)

theorem expTable_getD {n q prim i : Nat} (hi : i < n) :
    (expTable n q prim).getD i 0 = (powersFrom q prim n 1).getD i 0 := by
  simp [expTable, List.getD, List.getElem?_append, hi]

/-! ### Polynomials (41_polynomial R140 to R143) -/

@[simp] theorem polyScale_length (f : Field) (p : List Nat) (x : Nat) : (polyScale f p x).length = p.length := by
  simp [polyScale]

theorem padLeft_length (L : Nat) (p : List Nat) : (padLeft L p).length = max L p.length := by
  simp [padLeft]; omega

@[simp] theorem polyAdd_length (p r : List Nat) : (polyAdd p r).length = max p.length r.length := by
  simp [polyAdd, padLeft_length]

@[simp] theorem polyMul_length (f : Field) (p r : List Nat) :
    (polyMul f p r).length = p.length + r.length - 1 :=
  repeatUp_invariant (P := fun out : List Nat => out.length = p.length + r.length - 1) (by simp)
    fun _ _ _ _ h => repeatUp_invariant (P := fun out : List Nat => out.length = p.length + r.length - 1) h
      fun _ _ _ _ h => by simpa using h

/-! ### Encoder (42_encoder R160, R162) -/

theorem generator_length (f : Field) (t : Nat) : (generator f t).length = t + 1 :=
  repeatUp_induct (P := fun i (g : List Nat) => g.length = i + 1) (Nat.zero_le t) rfl
    fun i g _ _ h => by simp [h]

@[simp] theorem encodeRound_length (f : Field) (g : List Nat) (nsym i : Nat) (buf : List Nat) :
    (encodeRound f g nsym i buf).length = buf.length := by
  unfold encodeRound
  dsimp only
  split
  · exact repeatUp_invariant (P := fun b : List Nat => b.length = buf.length) rfl
      fun _ _ _ _ h => by simpa using h
  · rfl

/-- Everything a round of the encoder's division does to an entry of the buffer. -/
theorem encodeRound_getD (f : Field) (g : List Nat) (nsym i : Nat) (buf : List Nat) {k : Nat} (hk : k < buf.length)
    (hc : buf.getD i 0 ≠ 0) :
    (encodeRound f g nsym i buf).getD k 0 =
      if i ≤ k ∧ k ≤ i + nsym then buf.getD k 0 ^^^ gfMul f (g.getD (k - i) 0) (buf.getD i 0) else buf.getD k 0 := by
  simp only [encodeRound, hc, ne_eq, not_false_eq_true, if_true]
  have key := repeatUp_induct (lo := 0) (hi := nsym + 1) (x := buf)
    (body := fun j b => xorAt b (i + j) (gfMul f (g.getD j 0) (buf.getD i 0)))
    (P := fun j b => b.length = buf.length ∧ ∀ k < buf.length, b.getD k 0 =
      if i ≤ k ∧ k < i + j then buf.getD k 0 ^^^ gfMul f (g.getD (k - i) 0) (buf.getD i 0) else buf.getD k 0)
    (Nat.zero_le _) ⟨rfl, fun k _ => by rw [if_neg (by omega)]⟩ (by
      rintro j b - - ⟨hl, h⟩
      refine ⟨by simpa using hl, fun k hk => ?_⟩
      rw [xorAt_getD _ _ _ _ (by omega), h k hk]
      by_cases e : k = i + j
      · subst e; simp
      · rw [if_neg e]; congr 1; simp; omega)
  rw [key.2 k hk]; congr 1; simp; omega

/-! ### Decoder (43_decoder_front R182, R184) -/

@[simp] theorem syndromes_length (f : Field) (nsym : Nat) (w : List Nat) : (syndromes f nsym w).length = nsym := by
  simp [syndromes]

@[simp] theorem forneyStep_length (f : Field) (x : Nat) (v : List Nat) :
    (forneyStep f x v).length = v.length - 1 := by simp [forneyStep]

theorem forney_length (f : Field) (S era : List Nat) (nmess : Nat) :
    (forney f S era nmess).length = S.length - era.length := by
  unfold forney
  induction era generalizing S with
  | nil => simp
  | cons p era ih => simp [ih]; omega

@[simp] theorem workingCodeword_length (rx : List (Option Nat)) : (workingCodeword rx).length = rx.length := by
  simp [workingCodeword]

theorem erasuresFrom_length_le (i : Nat) (rx : List (Option Nat)) : (erasuresFrom i rx).length ≤ rx.length := by
  induction rx generalizing i with
  | nil => simp [erasuresFrom]
  | cons o rx ih =>
    cases o with
    | none => simpa [erasuresFrom] using ih (i + 1)
    | some v => exact Nat.le_succ_of_le (by simpa [erasuresFrom] using ih (i + 1))

/-- Every erased position is a position of the block. -/
theorem erasuresFrom_lt {i p : Nat} {rx : List (Option Nat)} (h : p ∈ erasuresFrom i rx) :
    i ≤ p ∧ p < i + rx.length := by
  induction rx generalizing i with
  | nil => simp [erasuresFrom] at h
  | cons o rx ih =>
    cases o with
    | none =>
      rcases List.mem_cons.1 h with rfl | h
      · simp
      · have := ih h; simp; omega
    | some v => have := ih (by simpa [erasuresFrom] using h); simp; omega

/-! ### Locator and correction (44_locator R203, 45_correction R222) -/

/-- Every position root search finds is a position of the codeword. -/
theorem chienPositions_lt {f : Field} {loc : List Nat} {nmess p : Nat} (h : p ∈ chienPositions f loc nmess) :
    p < nmess := by
  simp only [chienPositions, List.mem_map, List.mem_filter, List.mem_range] at h
  obtain ⟨i, ⟨hi, -⟩, rfl⟩ := h
  omega

theorem chienPositions_length_le (f : Field) (loc : List Nat) (nmess : Nat) :
    (chienPositions f loc nmess).length ≤ nmess := by
  simpa [chienPositions] using List.length_filter_le _ (List.range nmess)

@[simp] theorem applyErrata_length (w ps vs : List Nat) : (applyErrata w ps vs).length = w.length := by
  induction ps generalizing w vs with
  | nil => simp [applyErrata]
  | cons p ps ih => cases vs <;> simp [applyErrata, ih]

/-- The lengths of Berlekamp-Massey's two polynomials after a round (44_locator R200). -/
theorem bmRound_length (f : Field) (S : List Nat) (i : Nat) (p : List Nat × List Nat) :
    (bmRound f S i p).1.length ≤ max p.1.length (p.2.length + 1) ∧
      (bmRound f S i p).2.length ≤ max p.1.length (p.2.length + 1) := by
  unfold bmRound
  dsimp only
  split
  · split
    · simp
      omega
    · simp
  · simp

/-- R202, items 1 and 2: err after i rounds has at most i + 1 entries. -/
theorem bm_lengths (f : Field) (S : List Nat) (i : Nat) :
    (repeatUp 0 i ([1], [1]) (bmRound f S)).1.length ≤ i + 1 ∧
      (repeatUp 0 i ([1], [1]) (bmRound f S)).2.length ≤ i + 1 :=
  repeatUp_induct (P := fun i (p : List Nat × List Nat) => p.1.length ≤ i + 1 ∧ p.2.length ≤ i + 1)
    (Nat.zero_le i) (by simp) fun j p _ _ h => by
      have := bmRound_length f S j p
      omega

end Sys2Proof.Machine
end

