-- ==== Sys2Proof/Laws/Step.lean ====
section
/-! SUPPORT. What one step can do: the engine's turn and the host's turn. -/

namespace Sys2Proof.Machine

theorem step_of_engineTurn {s : State} (h : s.engineTurn = true) : step s = runPending s := by simp [step, h]

theorem step_of_hostTurn {s : State} (h : s.engineTurn = false) : step s = hostTurn s := by simp [step, h]

theorem runPending_of_decode {s : State} {i : Instr} (h : decodeWord s.pending = .ok i) :
    runPending s = exec i s := by simp [runPending, h]

theorem runPending_of_illegal {s : State} {e : DecodeError} (h : decodeWord s.pending = .error e) :
    runPending s = .next (s.finish .illegalCommand) := by simp [runPending, h]

/-- Everything a step that goes on can do: a command, an illegal word, nothing, or one host move. -/
theorem step_cases {s t : State} (h : step s = .next t) :
    (s.engineTurn = true ∧ ∃ i, decodeWord s.pending = .ok i ∧ exec i s = .next t) ∨
    (s.engineTurn = true ∧ (∃ e, decodeWord s.pending = .error e) ∧ t = s.finish .illegalCommand) ∨
    (s.engineTurn = false ∧ s.host = [] ∧ t = s) ∨
    (s.engineTurn = false ∧ ∃ op rest, s.host = op :: rest ∧
      hostMove { s with host := rest, wait := s.wait - 1 } op = .next t) := by
  cases he : s.engineTurn with
  | true =>
    rw [step_of_engineTurn he] at h
    cases hd : decodeWord s.pending with
    | ok i => exact .inl ⟨rfl, i, rfl, by rwa [runPending_of_decode hd] at h⟩
    | error e =>
      rw [runPending_of_illegal hd] at h
      exact .inr (.inl ⟨rfl, ⟨e, rfl⟩, by simpa using h.symm⟩)
  | false =>
    rw [step_of_hostTurn he] at h
    cases hh : s.host with
    | nil => exact .inr (.inr (.inl ⟨rfl, rfl, by simpa [hostTurn, hh] using h.symm⟩))
    | cons op rest => exact .inr (.inr (.inr ⟨rfl, op, rest, rfl, by simpa [hostTurn, hh] using h⟩))

/-- Everything a read of a legal target can do to the state: nothing but advance the free-value counter. -/
theorem readTarget_state (s : State) (t : Target) :
    (s.readTarget t).2 = s ∨ (s.readTarget t).2 = { s with free := s.free + 1 } := by
  unfold State.readTarget
  split
  · exact .inr rfl
  · split
    · exact .inr rfl
    · split
      · exact .inl rfl
      · split
        · exact .inl rfl
        · exact .inr rfl

theorem busRead_cases {s t : State} {a size : Nat} {v : Word} (h : busRead s a size = .ok (v, t)) :
    ∃ tg, locate a size = some tg ∧ (v, t) = s.readTarget tg := by
  unfold busRead at h
  split at h
  · exact ⟨_, ‹_›, by simpa using h.symm⟩
  · simp at h

/-- A host read leaves the state as it is but for the free-value counter. -/
theorem busRead_state {s t : State} {a size : Nat} {v : Word} (h : busRead s a size = .ok (v, t)) :
    t = s ∨ t = { s with free := s.free + 1 } := by
  obtain ⟨tg, -, e⟩ := busRead_cases h
  have : t = (s.readTarget tg).2 := by rw [← e]
  rw [this]; exact readTarget_state s tg

theorem busWrite_cases {s t : State} {a size : Nat} {v : Word} (h : busWrite s a size v = .ok t) :
    ∃ tg, locate a size = some tg ∧ t = s.writeTarget tg v := by
  unfold busWrite at h
  split at h
  · exact ⟨_, ‹_›, by simpa using h.symm⟩
  · simp at h

/-- Everything one host move that goes on can do. -/
theorem hostMove_cases {s t : State} {op : HostOp} (h : hostMove s op = .next t) :
    (∃ a size v, op = .write a size v ∧ busWrite s a size v = .ok t) ∨
    (∃ a size use v u, op = .read a size use ∧ busRead s a size = .ok (v, u) ∧ t = u.record a v use) ∨
    (∃ a mask val v u, op = .poll a mask val ∧ busRead s a 4 = .ok (v, u) ∧
      (t = u.record a v .discard ∨ t = { u.record a v .discard with host := op :: u.host })) ∨
    (op = .waitIrq ∧ t = if s.irq then s else { s with host := op :: s.host }) ∨
    (∃ b, op = .rst b ∧ t = s.setRst b) := by
  cases op with
  | write a size v =>
    refine .inl ⟨a, size, v, rfl, ?_⟩
    simp only [hostMove] at h
    split at h
    · simp_all
    · simp at h
  | read a size use =>
    refine .inr (.inl ?_)
    simp only [hostMove] at h
    split at h
    · exact ⟨a, size, use, _, _, rfl, ‹_›, by simpa using h.symm⟩
    · simp at h
  | poll a mask val =>
    refine .inr (.inr (.inl ?_))
    simp only [hostMove] at h
    split at h
    · refine ⟨a, mask, val, _, _, rfl, ‹_›, ?_⟩
      simp only [Host.Outcome.next.injEq] at h
      split at h
      · exact .inl h.symm
      · exact .inr h.symm
    · simp at h
  | waitIrq => exact .inr (.inr (.inr (.inl ⟨rfl, by simpa [hostMove] using h.symm⟩)))
  | rst b => exact .inr (.inr (.inr (.inr ⟨b, rfl, by simpa [hostMove] using h.symm⟩)))

/-- Latching a table row's word makes it the engine's turn. -/
theorem withFetchWord_engineTurn (s : State) {nbits w : Nat} (h : nbits ≤ 32) :
    (s.withFetchWord nbits w).engineTurn = true := by
  simp [State.withFetchWord, tableWord?, h, State.engineTurn]

theorem withFetchWord_pending (s : State) {nbits w : Nat} (h : nbits ≤ 32) :
    (s.withFetchWord nbits w).pending = BitVec.ofNat 32 (w % 2 ^ nbits) := by
  simp [State.withFetchWord, tableWord?, h]

end Sys2Proof.Machine
end

