-- ==== Sys2Proof/Machine/Platform.lean ====
section
/-! DEFINITION. A platform with several engines (60_exceptions R260, R261): each at its own GFRS_BASE with its own IRQ line,
sharing no state.  Their draws and delays come from the same free constants, a DESIGN CHOICE (log 17). -/

namespace Sys2Proof.Machine

/-- The engines of a platform (R261). -/
abbrev Platform := List State

/-- Size of an engine's window: 22-bit byte addresses (R60). -/
def windowSize : Nat := 0x400000

/-- The offset at which a platform address falls in an engine's window (R60, R62). -/
def Params.offset? (p : Params) (a : Nat) : Option Nat :=
  if p.base ≤ a ∧ a < p.base + windowSize then some (a - p.base) else none

/-- The first engine whose window holds a platform address, and the offset in it. -/
def Platform.route? (p : Platform) (a : Nat) : Option (Nat × Nat) :=
  p.zipIdx.findSome? fun (s, k) => (Params.offset? s.params a).map fun off => (k, off)

/-- Engine `k` takes a step; the others do not change (R261: instances share no state).  Where there is
no engine `k` the platform is left as it is, a DESIGN CHOICE (log 17). -/
def Platform.stepAt (p : Platform) (k : Nat) : Host.Outcome Platform Fault Refusal :=
  match p[k]? with
  | none => .next p
  | some s =>
    match step s with
    | .next t => .next (p.set k t)
    | .fault f => .fault f
    | .refused r => .refused r

/-- The level of an interrupt line: some engine drives it and asserts its IRQ output (R256, R260).  R261 gives each
engine its own line; where two engines name one line, the OR of their outputs is a DESIGN CHOICE (log 17). -/
def Platform.irqLine (p : Platform) (line : Nat) : Bool :=
  p.any fun s => s.params.irqLine == line && s.irq

end Sys2Proof.Machine
end

