-- ==== Sys2Proof/Tests/Slice0.lean ====
section
/-! SUPPORT. Tests from the spec's own vectors (95_test_vectors), ill-formed terms the checks refuse, and a witness
for the hypotheses of every obligation. -/

open Sys2Proof Sys2Proof.Machine

namespace Sys2Proof.Tests

/-! ### States and checks -/

/-- GF(16), n = 15, k = 11, with EXP and LOG as 95_test_vectors section 2.1 lists them. -/
def s16 : State :=
  { State.reset with
    configured := true
    cfg := { n := 15, k := 11, q := 16, m := 4, nsym := 4, prim := 0x13 }
    exp := [1, 2, 4, 8, 3, 6, 12, 11, 5, 10, 7, 14, 15, 13, 9, 1, 2, 4, 8, 3, 6, 12, 11, 5, 10, 7, 14, 15, 13, 9]
    log := [0, 0, 1, 4, 2, 8, 5, 10, 3, 14, 9, 7, 6, 13, 11, 12] }

/-- A busy engine with a word latched and its step due. -/
def busy16 (w : Word) : State := { s16 with busy := true, pending := w }

/-- Symbols or positions in a buffer. -/
def put (s : State) (b : Buf) (vs : List Nat) : State := { s with mem := s.mem.store b vs }

/-- Whole words in IN from entry `i` on, ERASED bits among them. -/
def putIn (s : State) : Nat → List Word → State
  | _, [] => s
  | i, w :: ws => putIn { s with mem := s.mem.setEntry .inp i w } (i + 1) ws

/-- An erased IN entry. -/
def E : Word := 0x80000000

/-- A command goes on, and its next state meets a check. -/
def holds (r : Result) (p : State → Bool) : Bool :=
  match r with
  | .next t => p t
  | _ => false

/-- A command stops with a model fault. -/
def faults (r : Result) (f : Fault) : Bool :=
  match r with
  | .fault g => g == f
  | _ => false

/-- The next state of a command that goes on. -/
def after (r : Result) : State :=
  match r with
  | .next t => t
  | _ => State.reset

theorem eq_after {r : Result} {p : State → Bool} (h : holds r p = true) : r = .next (after r) := by
  cases r <;> simp_all [holds, after]

/-- The codeword of 95_test_vectors section 2.5. -/
def cw : List Nat := [1, 2, 3, 4, 5, 6, 7, 8, 9, 10, 11, 3, 3, 12, 12]

/-! ### Decoding: the words of 30_encoding R90, R92 bit by bit, RSVD above OPCODE -/

theorem test_word_nop : decodeWord 0b000000000000000000000000_00000000 = .ok .nop := by decide
theorem test_word_configure : decodeWord 0b000000000000000000000000_00000001 = .ok .configure := by decide
theorem test_word_gfMul : decodeWord 0b000000000000000000000000_00010000 = .ok .gfMul := by decide
theorem test_word_gfDiv : decodeWord 0b000000000000000000000000_00010001 = .ok .gfDiv := by decide
theorem test_word_gfExp : decodeWord 0b000000000000000000000000_00010010 = .ok .gfExp := by decide
theorem test_word_gfLog : decodeWord 0b000000000000000000000000_00010011 = .ok .gfLog := by decide
theorem test_word_polyScale : decodeWord 0b000000000000000000000000_00100000 = .ok .polyScale := by decide
theorem test_word_polyAdd : decodeWord 0b000000000000000000000000_00100001 = .ok .polyAdd := by decide
theorem test_word_polyMul : decodeWord 0b000000000000000000000000_00100010 = .ok .polyMul := by decide
theorem test_word_polyEval : decodeWord 0b000000000000000000000000_00100011 = .ok .polyEval := by decide
theorem test_word_genPoly : decodeWord 0b000000000000000000000000_00110000 = .ok .genPoly := by decide
theorem test_word_encode : decodeWord 0b000000000000000000000000_00110001 = .ok .encode := by decide
theorem test_word_load : decodeWord 0b000000000000000000000000_01000000 = .ok .load := by decide
theorem test_word_syndrome : decodeWord 0b000000000000000000000000_01000001 = .ok .syndrome := by decide
theorem test_word_forneySyn : decodeWord 0b000000000000000000000000_01000010 = .ok .forneySyn := by decide
theorem test_word_bm : decodeWord 0b000000000000000000000000_01000011 = .ok .bm := by decide
theorem test_word_chien : decodeWord 0b000000000000000000000000_01000100 = .ok .chien := by decide
theorem test_word_correct : decodeWord 0b000000000000000000000000_01000101 = .ok .correct := by decide
theorem test_word_verify : decodeWord 0b000000000000000000000000_01000110 = .ok .verify := by decide
theorem test_word_decode : decodeWord 0b000000000000000000000000_01001111 = .ok .decode := by decide

/-- The refused words of 95_test_vectors section 2.8. -/
theorem test_words_refused :
    decodeWord 0x00000100 = .error .reservedBits ∧ decodeWord 0xFFFFFF4F = .error .reservedBits ∧
    decodeWord 0x00000002 = .error .unknownOpcode ∧ decodeWord 0x000000FF = .error .unknownOpcode := by decide

/-- DECODE's word on the bus, lowest address first (20_memory R61), with the next byte left over. -/
theorem test_bytes_decode :
    decodeBytes [0x4F, 0x00, 0x00, 0x00, 0xAA] = .ok (.decode, [0xAA]) ∧
    decodeBytes [0x4F, 0x01, 0x00, 0x00] = .error .reservedBits ∧
    decodeBytes [0x4F, 0x00, 0x00] = .error .tooShort := by decide

theorem test_table_word : decodeTableWord 32 0x45 = some .correct ∧ decodeTableWord 8 0x45 = some .correct ∧
    decodeTableWord 32 0x47 = none := by decide

/-! ### Ill-formed terms -/

theorem test_wf_default_params : Params.default.wellFormed = true := by decide

/-- A table with an entry missing. -/
theorem test_wf_short_table :
    ({ Params.default with primTable := Params.defaultPrimTable.dropLast } : Params).wellFormed = false := by decide

/-- A constant of degree 3 where m = 2 asks for degree 2, and one of degree 1. -/
theorem test_wf_wrong_degree :
    ({ Params.default with primTable := 0xB :: Params.defaultPrimTable.tail } : Params).wellFormed = false ∧
    ({ Params.default with primTable := 0x3 :: Params.defaultPrimTable.tail } : Params).wellFormed = false := by
  decide

/-- Each bus rule of 20_memory R63: size, alignment, the unmapped range, the reserved range, the window. -/
theorem test_wf_host_moves :
    (HostOp.write 0x00C 2 0).wellFormed = false ∧ (HostOp.read 0x002 4 .discard).wellFormed = false ∧
    (HostOp.read 0x06C 4 .discard).wellFormed = false ∧ (HostOp.poll 0x03FFFC 0 0).wellFormed = false ∧
    (HostOp.read 0x380000 4 .discard).wellFormed = false ∧ (HostOp.write 0x400000 4 0).wellFormed = false ∧
    (HostOp.read 0x37FFFC 4 .discard).wellFormed = true ∧ (HostOp.write 0x068 4 0).wellFormed = true ∧
    (HostOp.rst true).wellFormed = true ∧ HostOp.waitIrq.wellFormed = true := by decide

/-- Script lines that name no register or entry. -/
theorem test_wf_script_lines :
    (Pseudo.wr 0x06C 0).wellFormed = false ∧ (Pseudo.rd 0x001).wellFormed = false ∧
    (Pseudo.rdTo 0x06C "x").wellFormed = false ∧
    (Pseudo.poll 0x380000 1 0).wellFormed = false ∧ (Pseudo.expect 0x07C 0).wellFormed = false ∧
    (Pseudo.sym .out 65536 0).wellFormed = false ∧ (Pseudo.sym .pr 65536 0).wellFormed = true ∧
    (Pseudo.erase 65536).wellFormed = false := by decide

theorem test_wf_long_load (vs : List Word) (h : vs.length = 65537) : (Pseudo.loadSyms .inp vs).wellFormed = false := by
  simp [Pseudo.wellFormed, h, Buf.depth]

/-! ### Field commands (95_test_vectors section 2.2) -/

theorem test_nop_after_reset : holds (exec .nop State.reset) (fun t => t.statusWord == 0x00000002) = true := by decide

theorem test_configure_16 :
    holds (exec .configure { State.reset with cfgN := 15, cfgK := 11 })
      (fun t => t.cfg == s16.cfg && t.exp == s16.exp && t.log == s16.log && t.statusWord == 0x00000006) = true := by
  decide

theorem test_configure_k_above_n :
    holds (exec .configure { s16 with cfgN := 15, cfgK := 16 })
      (fun t => t.code == .configurationError && t.cfg == s16.cfg && t.configured) = true := by decide

theorem test_gfMul : holds (exec .gfMul { s16 with opA := 7, opB := 9 }) (fun t => t.result == 10) = true := by decide

theorem test_gfMul_whole_word :
    holds (exec .gfMul { s16 with opA := 1, opB := 0xFFFFFFFF, result := 5 })
      (fun t => t.code == .invalidSymbol && t.result == 5) = true := by decide

theorem test_gfDiv : holds (exec .gfDiv { s16 with opA := 7, opB := 9 }) (fun t => t.result == 14) = true := by decide

theorem test_gfDiv_zero_by_zero :
    holds (exec .gfDiv { s16 with result := 5 }) (fun t => t.code == .divisionByZero && t.result == 5) = true := by
  decide

theorem test_gfExp_last : holds (exec .gfExp { s16 with opA := 29 }) (fun t => t.result == 9) = true := by decide

theorem test_gfExp_2n : holds (exec .gfExp { s16 with opA := 30 }) (fun t => t.code == .operandRange) = true := by
  decide

theorem test_gfLog : holds (exec .gfLog { s16 with opA := 15 }) (fun t => t.result == 12) = true := by decide

theorem test_gfLog_zero : holds (exec .gfLog s16) (fun t => t.code == .operandRange) = true := by decide

/-! ### Polynomial unit (95_test_vectors section 2.4) -/

theorem test_polyScale :
    holds (exec .polyScale { put s16 .pa [3, 0, 5] with lenA := 3, opA := 2 })
      (fun t => t.symsOf .pr 3 == [6, 0, 10] && t.lenR == 3) = true := by decide

theorem test_polyScale_bad_symbol :
    holds (exec .polyScale { put s16 .pa [1, 16, 3] with lenA := 3, opA := 20 })
      (fun t => t.code == .invalidSymbol && t.lenR == 0) = true := by decide

theorem test_polyAdd :
    holds (exec .polyAdd { put (put s16 .pa [5]) .pb [1, 2, 3] with lenA := 1, lenB := 3 })
      (fun t => t.symsOf .pr 3 == [1, 2, 6] && t.lenR == 3) = true := by decide

theorem test_polyMul :
    holds (exec .polyMul { put (put s16 .pa [3, 0, 5]) .pb [2, 7] with lenA := 3, lenB := 2 })
      (fun t => t.symsOf .pr 4 == [6, 9, 10, 8] && t.lenR == 4) = true := by decide

theorem test_polyMul_no_operand :
    holds (exec .polyMul { put s16 .pa [3, 0, 5] with lenA := 3 }) (fun t => t.code == .operandRange) = true := by decide

theorem test_polyEval :
    holds (exec .polyEval { put s16 .pa [3, 0, 5] with lenA := 3, opA := 2 }) (fun t => t.result == 9) = true := by decide

theorem test_polyEval_unwritten :
    faults (exec .polyEval { put s16 .pa [1] with lenA := 2 }) (.unwrittenRead .pa 1) = true := by decide

/-! ### Encoder (95_test_vectors section 2.3) -/

theorem test_genPoly :
    holds (exec .genPoly s16) (fun t => t.symsOf .gen 5 == [1, 15, 3, 1, 12] && t.lenGen == 5) = true := by decide

/-- LEN_IN = 11. -/
def msg16 : State := { putIn s16 0 [1, 2, 3, 4, 5, 6, 7, 8, 9, 10, 11] with lenIn := 11 }

theorem test_encode :
    holds (exec .encode msg16) (fun t => t.symsOf .out 15 == cw && t.lenOut == 15) = true := by decide +kernel

theorem test_encode_erased :
    holds (exec .encode { putIn s16 0 [1, E, 3] with lenIn := 3 }) (fun t => t.code == .invalidSymbol) = true := by
  decide

/-! ### Decode stages (95_test_vectors sections 2.5 to 2.7) -/

/-- IN of trace C (95_test_vectors section 4.1). -/
def rx16 : State := { putIn s16 0 [E, 2, 3, 4, 5, 6, 7, E, 9, 10, 11, 3, 6, 12, 12] with lenIn := 15 }

/-- WORK, SYN, ERA, ERRPOS and their lengths in trace C before CORRECT. -/
def traceC : State :=
  { put (put (put (put s16 .work [0, 2, 3, 4, 5, 6, 7, 0, 9, 10, 11, 3, 6, 12, 12]) .syn [12, 9, 6, 12])
      .era [0, 7]) .errpos [12] with
    lenWork := 15, lenSyn := 4, numEra := 2, numErrpos := 1 }

/-- A FORNEY_SYN state: LEN_WORK = 15, LEN_SYN = 4, NUM_ERA = 2, SYN of trace C. -/
def fs16 (era : List Nat) : State :=
  { put (put s16 .syn [12, 9, 6, 12]) .era era with lenWork := 15, lenSyn := 4, numEra := 2 }

theorem test_load :
    holds (exec .load rx16)
      (fun t => t.symsOf .work 15 == [0, 2, 3, 4, 5, 6, 7, 0, 9, 10, 11, 3, 6, 12, 12] &&
        t.symsOf .era 2 == [0, 7] && t.lenWork == 15 && t.numEra == 2) = true := by decide +kernel

theorem test_load_five_erasures :
    holds (exec .load { putIn s16 0 [E, E, E, E, E, 6] with lenIn := 6 })
      (fun t => t.code == .tooManyErasures && t.lenWork == 0) = true := by decide

theorem test_syndrome :
    holds (exec .syndrome (put { s16 with lenWork := 15 } .work [0, 2, 3, 4, 5, 6, 7, 0, 9, 10, 11, 3, 6, 12, 12]))
      (fun t => t.symsOf .syn 4 == [12, 9, 6, 12] && t.lenSyn == 4) = true := by
  decide +kernel

theorem test_syndrome_empty : holds (exec .syndrome s16) (fun t => t.symsOf .syn 4 == [0, 0, 0, 0]) = true := by decide

theorem test_forneySyn :
    holds (exec .forneySyn (fs16 [0, 7])) (fun t => t.symsOf .fsyn 2 == [8, 6] && t.lenFsyn == 2) = true := by decide +kernel

theorem test_forneySyn_position_range :
    holds (exec .forneySyn { put (put s16 .syn [12, 9, 6, 12]) .era [15] with lenWork := 15, lenSyn := 4, numEra := 1 })
      (fun t => t.code == .operandRange) = true := by decide

theorem test_bm :
    holds (exec .bm { put s16 .fsyn [8, 12, 1, 14] with lenFsyn := 4 })
      (fun t => t.symsOf .loc 3 == [13, 13, 1] && t.lenLoc == 3) = true := by decide +kernel

theorem test_bm_too_many :
    holds (exec .bm { put s16 .fsyn [1, 11, 9, 9] with lenFsyn := 4 }) (fun t => t.code == .tooManyErrors) = true := by
  decide +kernel

theorem test_chien :
    holds (exec .chien { put s16 .loc [13, 13, 1] with lenLoc := 3, lenWork := 15 })
      (fun t => t.symsOf .errpos 2 == [13, 2] && t.numErrpos == 2) = true := by decide +kernel

theorem test_chien_one_root :
    holds (exec .chien { put s16 .loc [13, 13, 1] with lenLoc := 3, lenWork := 10 })
      (fun t => t.code == .errorLocationFailure) = true := by decide +kernel

theorem test_correct : holds (exec .correct traceC) (fun t => t.symsOf .work 15 == cw) = true := by decide +kernel

theorem test_correct_duplicate :
    holds (exec .correct { put (put traceC .era [3]) .errpos [3] with numEra := 1, numErrpos := 1 })
      (fun t => t.code == .divisionByZero && t.symsOf .work 4 == [0, 2, 3, 4]) = true := by decide +kernel

theorem test_verify :
    holds (exec .verify { put s16 .work cw with lenWork := 15 })
      (fun t => t.symsOf .out 11 == [1, 2, 3, 4, 5, 6, 7, 8, 9, 10, 11] && t.lenOut == 11) = true := by decide +kernel

theorem test_verify_not_a_codeword :
    holds (exec .verify { put s16 .work (0 :: cw.tail) with lenWork := 15 })
      (fun t => t.code == .correctionVerificationFailure && t.lenOut == 0) = true := by decide +kernel

theorem test_decode :
    holds (exec .decode rx16)
      (fun t => t.symsOf .out 11 == [1, 2, 3, 4, 5, 6, 7, 8, 9, 10, 11] && t.symsOf .errpos 1 == [12] &&
        t.lenOut == 11 && t.code == .ok) = true := by decide +kernel

/-- The instance of 95_test_vectors section 4.3: WORK keeps LOAD's values. -/
theorem test_decode_division_by_zero :
    holds (exec .decode { putIn s16 0 [12, E, 3, 4, E, 1, 7, 8, 9, 10, 11, 3, 3, 12, 12] with lenIn := 15 })
      (fun t => t.code == .divisionByZero && t.symsOf .errpos 1 == [1] && t.symsOf .fsyn 2 == [6, 8] &&
        t.symsOf .work 2 == [12, 0]) = true := by decide +kernel

/-! ### Host moves (95_test_vectors section 2.8) -/

/-- One step of an idle engine whose host has one move. -/
def oneMove (s : State) (op : HostOp) : Result := step { s with host := [op] }

theorem test_read_id : holds (oneMove State.reset (.read 0 4 (.expect 0x52530007))) (·.claimsHold) = true := by decide

theorem test_write_in_keeps_defined_bits :
    holds (oneMove s16 (.write 0x040000 4 0xFFFFFFFF)) (fun t => t.mem.entry? .inp 0 == some 0x8000FFFF) = true := by
  decide

theorem test_write_out_keeps_defined_bits :
    holds (oneMove s16 (.write 0x080000 4 0x12345678)) (fun t => t.mem.entry? .out 0 == some 0x00005678) = true := by
  decide

theorem test_ack :
    holds (oneMove { s16 with done := true, ie := true, ovr := true, code := .tooManyErasures }
      (.write 0x008 4 0x0000000A)) (fun t => t.statusWord == 0x00000404 && !t.irq) = true := by decide

theorem test_busy_write_dropped :
    holds (oneMove { busy16 0 with wait := 1 } (.write 0x00C 4 1))
      (fun t => t.statusWord == 0x0000000D && t.pending == 0) = true := by decide

theorem test_bus_errors :
    faults (oneMove s16 (.read 0x06C 4 .discard)) (.hostBusError 0x06C) = true ∧
    faults (oneMove s16 (.read 0x380000 4 .discard)) (.hostBusError 0x380000) = true ∧
    faults (oneMove s16 (.write 0x040000 2 0)) (.hostBusError 0x040000) = true := by decide

theorem test_illegal_word_before_not_configured :
    holds (step { State.reset with busy := true, pending := 0xFFFFFF4F }) (fun t => t.code == .illegalCommand) = true ∧
    holds (step { State.reset with busy := true, pending := 0x0000004F }) (fun t => t.code == .notConfigured) = true := by
  decide

/-- R61: the four byte lanes of an entry, lowest address first. -/
theorem test_byte_order :
    (Memory.setEntry [] .inp 1 0x80001234).read? 0x040004 = some 0x34 ∧
    (Memory.setEntry [] .inp 1 0x80001234).read? 0x040007 = some 0x80 := by decide

/-- R98: RUN is a CMD write and a WAIT. -/
theorem test_run_expands :
    expandAll [.run .decode, .ack, .erase 7] =
      [.write 0x00C 4 0x4F, .poll 0x008 1 0, .write 0x008 4 0xA, .write 0x04001C 4 0x80000000] := by decide

/-- R97: `RD ID -> id` reads into a host variable, `RD ID` into none, and the latest value counts. -/
theorem test_read_to_variable :
    (match Sys2Proof.core.run 3 (s16.withScript [.rdTo 0x018 "n", .rdTo 0x000 "id", .rd 0x014]) with
      | .next t => State.hostVar? t "id" == some 0x52530007 && State.hostVar? t "n" == some 15 &&
          (State.hostVar? t "k").isNone
      | .fault _ => false
      | .refused _ => false) = true := by decide

/-- R287: a host that waits for IRQ with IE = 1 goes on once the command has completed, and not before. -/
theorem test_wait_irq :
    holds (oneMove { busy16 0 with wait := 1, ie := true } .waitIrq) (fun t => t.host == [.waitIrq] && t.wait == 0) = true ∧
    holds (oneMove { s16 with done := true, ie := true } .waitIrq) (fun t => t.host == []) = true ∧
    holds (oneMove { s16 with done := true } .waitIrq) (fun t => t.host == [.waitIrq]) = true := by decide

/-- R281, R289: RST released in the middle of a script leaves the launch state Reset. -/
theorem test_release_leaves_reset (s : State) : ((s.setRst true).setRst false).IsReset := rfl

/-- An engine of a platform, on its own line. -/
def otherEngine : State := { s16 with params := { Params.default with base := 0x400000, irqLine := 1 }, done := true, ie := true }

/-- Two engines: a step of one leaves the other alone, and each drives its own line (R260, R261). -/
theorem test_two_engines :
    (match Platform.stepAt [busy16 0, otherEngine] 0 with
      | .next p => p.map (·.busy) == [false, false] && p[1]? == some otherEngine
      | .fault _ => false
      | .refused _ => false) = true ∧
    Platform.route? [busy16 0, otherEngine] 0x400008 = some (1, 8) ∧
    Platform.irqLine [busy16 0, otherEngine] 1 = true ∧ Platform.irqLine [busy16 0, otherEngine] 0 = false := by decide

/-! ### Witnesses: states and operands that meet the hypotheses of the obligations, clause by clause -/

/-! #### Encoding and dispatch -/

theorem witness_OnlyTwentyWordsAreLegal :
    (∀ i : Instr, decodeWord 0x00000100 ≠ .ok i) ∧ (∀ i : Instr, decodeWord 0x00000047 ≠ .ok i) ∧
    (busy16 0x00000100).rst = false ∧ (busy16 0x00000100).busy = true ∧ (busy16 0x00000100).wait = 0 ∧
    (busy16 0x00000100).pending = 0x00000100 := by
  refine ⟨fun i => by cases i <;> decide, fun i => by cases i <;> decide, ?_⟩
  decide

theorem witness_StepRunsLatchedCommand :
    ((busy16 0x10).rst = false ∧ (busy16 0x10).busy = true ∧ (busy16 0x10).wait = 0 ∧
      decodeWord (busy16 0x10).pending = .ok .gfMul ∧ Instr.gfMul.wellFormed = true) ∧
    (({ busy16 0x10 with wait := 3 } : State).wait ≠ 0 ∧ (busy16 0x10).host = []) ∧
    decodeTableWord 32 0x4F = some .decode ∧
    ((s16.setRst true).rst = true ∧ s16.busy = false ∧
      ({ busy16 0x10 with wait := 3, host := [waitOp] } : State).wait ≠ 0) := by decide

/-- Each host move that StepRunsLatchedCommand spells out is made in some state: a bus access that succeeds and one
that does not, a POLL that is over and one that stays, a wait for IRQ either way, and RST both ways. -/
theorem witness_StepRunsLatchedCommand_host :
    holds (step s16) (fun t => t == s16) = true ∧
    holds (oneMove s16 (.write 0x030 4 7)) (fun t => t.opA == 7 && t.host == []) = true ∧
    faults (oneMove s16 (.write 0x031 4 7)) (.hostBusError 0x031) = true ∧
    holds (oneMove s16 (.read 0x018 4 (.bind "n")))
      (fun t => t.reads == { addr := 0x018, value := 15, use := .bind "n" } :: s16.reads) = true ∧
    faults (oneMove s16 (.read 0x06C 4 .discard)) (.hostBusError 0x06C) = true ∧
    holds (oneMove s16 (.poll 0x008 1 0)) (fun t => t.host == []) = true ∧
    holds (oneMove s16 (.poll 0x008 1 1)) (fun t => t.host == [.poll 0x008 1 1]) = true ∧
    faults (oneMove s16 (.poll 0x06C 1 1)) (.hostBusError 0x06C) = true ∧
    holds (oneMove { busy16 0x4F with wait := 1 } (.rst true)) (fun t => !t.busy && t.rst) = true ∧
    holds (oneMove (s16.setRst true) (.rst false)) (fun t => !t.rst && !t.configured) = true ∧
    holds (oneMove s16 (.rst false)) (fun t => t == s16) = true := by decide

theorem witness_DispatchOrder :
    ((busy16 0x100).rst = false ∧ (busy16 0x100).busy = true ∧ (busy16 0x100).wait = 0 ∧
      rsvdField (busy16 0x100).pending ≠ 0) ∧
    Instr.ofOpcode? (opcodeField (busy16 0x02).pending) = none ∧
    (rsvdField (busy16 0x4F).pending = 0 ∧ Instr.ofOpcode? (opcodeField (busy16 0x4F).pending) = some .decode ∧
      (busy16 0x4F).configured = true ∧ ({ busy16 0x4F with configured := false } : State).configured = false) ∧
    Instr.ofOpcode? (opcodeField (busy16 0x01).pending) = some .configure := by decide

theorem witness_IllegalWordChangesOnlyStatus :
    (busy16 0x02).rst = false ∧ (busy16 0x02).busy = true ∧ (busy16 0x02).wait = 0 ∧
      ∀ i : Instr, (busy16 0x02).pending ≠ encode i :=
  ⟨by decide, by decide, by decide, fun i => by cases i <;> decide⟩

/-- The engine's turn with `wait` not 0 and no host move left: an illegal word, and a legal one while not configured. -/
theorem witness_engine_turn_without_host_moves :
    (({ busy16 0x100 with wait := 3 } : State).host = [] ∧ ({ busy16 0x100 with wait := 3 } : State).wait ≠ 0 ∧
      rsvdField ({ busy16 0x100 with wait := 3 } : State).pending ≠ 0) ∧
    holds (step { busy16 0x100 with wait := 3 }) (fun t => t.code == .illegalCommand) = true ∧
    holds (step { busy16 0x4F with wait := 3, configured := false }) (fun t => t.code == .notConfigured) = true := by decide

/-! #### Field engine -/

theorem witness_ConfigureLatches :
    (∃ s : State, s.cfgN.toNat + 1 = 2 ^ 2 ∧ s.cfgK.toNat ≤ s.cfgN.toNat ∧ s.cfgK.toNat = s.cfgN.toNat) ∧
    ∃ s : State, s.cfgN.toNat + 1 = 2 ^ 16 ∧ s.cfgK.toNat ≤ s.cfgN.toNat :=
  ⟨⟨{ State.reset with cfgN := 3, cfgK := 3 }, by decide⟩, ⟨{ State.reset with cfgN := 65535, cfgK := 0 }, by decide⟩⟩

theorem witness_ConfigureFails :
    (∃ s : State, ∀ m : Nat, 2 ≤ m → m ≤ 16 → s.cfgN.toNat + 1 ≠ 2 ^ m) ∧
    (∃ s : State, s.cfgN = 0xFFFFFFFF ∧ ∀ m : Nat, 2 ≤ m → m ≤ 16 → s.cfgN.toNat + 1 ≠ 2 ^ m) ∧
    ∃ s : State, s.cfgN.toNat + 1 = 2 ^ 4 ∧ s.cfgN.toNat < s.cfgK.toNat := by
  refine ⟨⟨{ State.reset with cfgN := 16 }, ?_⟩, ⟨{ State.reset with cfgN := 0xFFFFFFFF }, rfl, ?_⟩,
    ⟨{ State.reset with cfgN := 15, cfgK := 16 }, by decide⟩⟩ <;>
  · intro m h1 h2
    interval_cases m <;> decide

theorem primitive_4 : Primitive 3 4 0x7 := by decide
theorem primitive_16 : Primitive 15 16 0x13 := by decide

theorem witness_TableContract :
    2 ≤ 2 ∧ 1 + 1 < 2 ^ 2 - 1 ∧ 2 ^ 2 - 1 ≤ 3 ∧ 5 < 2 * (2 ^ 2 - 1) ∧ Primitive (2 ^ 2 - 1) (2 ^ 2) 0x7 ∧
    ¬ Primitive (2 ^ 4 - 1) (2 ^ 4) 0x1F := by decide

/-- LOG under a constant that is not primitive: 0x1F has order 5, so 1 is EXP[0], EXP[5] and last EXP[10], and 5 is no
power; and under 0x4 the loop reaches 0 at EXP[2], where LOG[0] stays 0 (R32, log 27). -/
theorem witness_TableContract_log :
    ((1 < 2 ^ 4 ∧ 10 < 15 ∧ (expTable 15 16 0x1F).getD 10 0 = 1 ∧
      ∀ j < 15, 10 < j → (expTable 15 16 0x1F).getD j 0 ≠ 1) ∧
      (logTable 15 16 0x1F).getD 1 0 = 10) ∧
    (∀ i < 15, (expTable 15 16 0x1F).getD i 0 ≠ 5) ∧
    ((expTable 3 4 0x4).getD 2 0 = 0 ∧ (logTable 3 4 0x4).getD 0 0 = 0) := by decide

/-- The premises FieldLaws, PolynomialLaws, EncodedBlockHasZeroSyndromes, ForneyOrderIndependent and
BmInvariants share. -/
theorem witness_primitive_constant :
    (2 ≤ 2 ∧ 2 ≤ 16 ∧ 2 ^ 2 ≤ 0x7 ∧ 0x7 < 2 ^ (2 + 1) ∧ Primitive (2 ^ 2 - 1) (2 ^ 2) 0x7) ∧
    (2 ^ 4 ≤ 0x13 ∧ 0x13 < 2 ^ (4 + 1) ∧ Primitive (2 ^ 4 - 1) (2 ^ 4) 0x13) := by decide

theorem witness_FieldLaws :
    (15 < 2 ^ 4 ∧ 1 ≠ 0 ∧ 1 < 2 ^ 4 ∧ 29 < 2 * (2 ^ 4 - 1) ∧ 14 < 2 ^ 4 - 1) ∧
    2 < 2 ^ 4 ∧ 9 < 2 ^ 4 ∧ gfMul s16.field 2 9 = 1 := by decide

theorem witness_GfMulResult :
    s16.configured = true ∧ s16.cfg.q ≤ ({ s16 with opA := 16 } : State).opA.toNat ∧
    s16.cfg.q ≤ ({ s16 with opB := 0xFFFFFFFF } : State).opB.toNat ∧
    ({ s16 with opA := 15, opB := 0 } : State).opA.toNat < s16.cfg.q ∧
    ({ s16 with opA := 15, opB := 0 } : State).opB.toNat < s16.cfg.q := by decide

theorem witness_GfDivResult :
    (s16.configured = true ∧ s16.cfg.q ≤ ({ s16 with opA := 16, opB := 0 } : State).opA.toNat) ∧
    (({ s16 with opA := 5, opB := 0 } : State).opA.toNat < s16.cfg.q ∧
      ({ s16 with opA := 5, opB := 0 } : State).opB.toNat = 0) ∧
    (({ s16 with opA := 0, opB := 15 } : State).opB.toNat < s16.cfg.q ∧
      ({ s16 with opA := 0, opB := 15 } : State).opB.toNat ≠ 0) := by decide

theorem witness_GfExpResult :
    s16.configured = true ∧ 2 * s16.cfg.n ≤ ({ s16 with opA := 30 } : State).opA.toNat ∧
    ({ s16 with opA := 29 } : State).opA.toNat < 2 * s16.cfg.n := by decide

theorem witness_GfLogResult :
    (s16.configured = true ∧ s16.cfg.q ≤ ({ s16 with opA := 16 } : State).opA.toNat) ∧
    (s16.opA.toNat < s16.cfg.q ∧ s16.opA.toNat = 0) ∧
    (({ s16 with opA := 15 } : State).opA.toNat < s16.cfg.q ∧ ({ s16 with opA := 15 } : State).opA.toNat ≠ 0 ∧
      ({ s16 with opA := 15 } : State).Inv ∧ Primitive s16.cfg.n s16.cfg.q s16.cfg.prim) := by decide +kernel

theorem witness_OperandReads :
    (s16.cfg.q ≤ (16 : Word).toNat ∧ (15 : Word).toNat < s16.cfg.q) ∧
    (s16.SymsReady .pa 0 ∧ (put s16 .pa [15]).SymsReady .pa 1) ∧
    (s16.UnwrittenAt .pa 1 0 ∧ (put s16 .pa [15]).UnwrittenAt .pa 2 1) ∧
    (put s16 .pa [15, 16]).InvalidAt .pa 2 1 ∧
    ((put s16 .era [14]).PositionsReady .era 1 15 ∧ (put s16 .era [14]).PosUnwrittenAt .era 2 15 1 ∧
      (put s16 .era [15]).PosBadAt .era 1 15 0) ∧
    ((putIn s16 0 [E]).mem.entry? .inp 0 = some E ∧ s16.mem.entry? .inp 65535 = none) := by decide

/-! #### Polynomial unit -/

/-- A POLY_SCALE and POLY_EVAL state of length 1, one of length 65536 that is unwritten, and the two refused
lengths. -/
theorem witness_PolyScaleResult_and_PolyEvalResult :
    (s16.configured = true ∧ s16.lenA.toNat = 0 ∧ 65536 < ({ s16 with lenA := 65537 } : State).lenA.toNat) ∧
    (({ s16 with lenA := 65536 } : State).lenA.toNat ≤ 65536 ∧
      ({ s16 with lenA := 65536 } : State).UnwrittenAt .pa 65536 0) ∧
    (1 ≤ ({ put s16 .pa [16] with lenA := 1 } : State).lenA.toNat ∧
      ({ put s16 .pa [16] with lenA := 1 } : State).InvalidAt .pa 1 0) ∧
    (({ put s16 .pa [15] with lenA := 1, opA := 16 } : State).SymsReady .pa 1 ∧
      s16.cfg.q ≤ ({ put s16 .pa [15] with lenA := 1, opA := 16 } : State).opA.toNat) ∧
    (({ put s16 .pa [15] with lenA := 1, opA := 15 } : State).opA.toNat < s16.cfg.q) := by decide

theorem witness_PolyAddResult_and_PolyMulResult :
    (s16.configured = true ∧ s16.lenA.toNat = 0 ∧ ({ s16 with lenA := 1, lenB := 0 } : State).lenB.toNat = 0 ∧
      65536 < ({ s16 with lenA := 1, lenB := 65537 } : State).lenB.toNat) ∧
    (({ s16 with lenA := 65536, lenB := 65536 } : State).lenB.toNat ≤ 65536 ∧
      ({ s16 with lenA := 65536, lenB := 65536 } : State).UnwrittenAt .pa 65536 0) ∧
    (put s16 .pa [1, 16]).InvalidAt .pa 2 1 ∧
    ((put s16 .pa [15]).SymsReady .pa 1 ∧ (put s16 .pa [15]).UnwrittenAt .pb 1 0) ∧
    ((put (put s16 .pa [15]) .pb [16]).SymsReady .pa 1 ∧ (put (put s16 .pa [15]) .pb [16]).InvalidAt .pb 1 0) ∧
    ((put (put s16 .pa [15]) .pb [0, 15]).SymsReady .pa 1 ∧ (put (put s16 .pa [15]) .pb [0, 15]).SymsReady .pb 2 ∧
      0 < max 1 2 ∧ 1 < 1 + 2 - 1) := by decide

theorem witness_PolyMulResult_function : [3] ≠ [] ∧ [0, 1] ≠ [] ∧ 1 < [3].length + [0, 1].length - 1 := by decide

theorem witness_PolynomialLaws :
    (1 ≤ [3].length ∧ ∀ c ∈ [3], c < 2 ^ 2) ∧ (1 ≤ [0, 1].length ∧ ∀ c ∈ [0, 1], c < 2 ^ 2) ∧ 3 < 2 ^ 2 := by decide

/-! #### Encoder -/

theorem witness_EncodeResult :
    (s16.configured = true ∧ s16.cfg.n < ({ s16 with lenIn := 12 } : State).lenIn.toNat + s16.cfg.nsym) ∧
    (({ s16 with lenIn := 11 } : State).lenIn.toNat + s16.cfg.nsym ≤ s16.cfg.n ∧ 0 < 11 ∧ s16.MessageReady 0 ∧
      s16.mem.entry? .inp 0 = none) ∧
    (putIn s16 0 [1, E]).MessageBadAt 2 1 ∧ (putIn s16 0 [1, 16]).MessageBadAt 2 1 ∧
    (msg16.lenIn.toNat + msg16.cfg.nsym ≤ msg16.cfg.n ∧ msg16.MessageReady 11) := by decide

theorem witness_EncoderSystematic : gfMul s16.field 1 1 = 1 := by decide

/-- The rounds of R162 on the message 1 0 over GF(16) with nsym = 4: a nonzero entry, and the GEN example of R161. -/
theorem witness_EncoderSystematic_rounds :
    (0 < [1, 0].length ∧ ([1, 0] ++ List.replicate 4 0).getD 0 0 ≠ 0) ∧
    encodeRound s16.field [1, 15, 3, 1, 12] 4 0 ([1, 0] ++ List.replicate 4 0) = [0, 15, 3, 1, 12, 0] ∧
    ([0, 0] ++ List.replicate 4 0).getD 0 0 = 0 := by decide

theorem witness_EncodedBlockHasZeroSyndromes :
    [3].length + 2 ≤ 2 ^ 2 - 1 ∧ (∀ v ∈ [3], v < 2 ^ 2) ∧ ([] : List Nat).length + 3 ≤ 2 ^ 2 - 1 := by decide

/-! #### Decoder front end -/

theorem witness_LoadResult :
    (s16.configured = true ∧ s16.cfg.n < ({ s16 with lenIn := 16 } : State).lenIn.toNat) ∧
    (({ s16 with lenIn := 15 } : State).lenIn.toNat ≤ s16.cfg.n ∧ 0 < 15 ∧ s16.ReceivedReady 0 ∧
      s16.mem.entry? .inp 0 = none) ∧
    (putIn s16 0 [E, 16]).ReceivedBadAt 2 1 ∧
    ((putIn s16 0 [E, E, E, E, E]).ReceivedReady 5 ∧
      s16.cfg.nsym < ((List.range 5).filter fun i => (putIn s16 0 [E, E, E, E, E]).erasedAt i).length) ∧
    ((putIn s16 0 [E, E, E, E, 15]).ReceivedReady 5 ∧
      ((List.range 5).filter fun i => (putIn s16 0 [E, E, E, E, 15]).erasedAt i).length ≤ s16.cfg.nsym) := by decide

theorem witness_SyndromeResult_and_VerifyResult :
    (s16.configured = true ∧ s16.cfg.n < ({ s16 with lenWork := 16 } : State).lenWork.toNat) ∧
    (({ s16 with lenWork := 15 } : State).lenWork.toNat ≤ s16.cfg.n ∧
      ({ s16 with lenWork := 15 } : State).UnwrittenAt .work 15 0) ∧
    (put s16 .work [0, 16]).InvalidAt .work 2 1 ∧ s16.SymsReady .work 0 ∧
    ((put s16 .work cw).SymsReady .work 15 ∧
      ∀ v ∈ syndromes s16.field s16.cfg.nsym ((put s16 .work cw).symsOf .work 15), v = 0) ∧
    ((put s16 .work [1]).SymsReady .work 1 ∧
      ∃ v ∈ syndromes s16.field s16.cfg.nsym ((put s16 .work [1]).symsOf .work 1), v ≠ 0) := by decide +kernel

theorem witness_ForneySynResult :
    (s16.configured = true ∧ s16.cfg.n < ({ s16 with lenWork := 16 } : State).lenWork.toNat) ∧
    (s16.lenWork.toNat ≤ s16.cfg.n ∧ 65536 < ({ s16 with lenSyn := 65537 } : State).lenSyn.toNat) ∧
    (({ s16 with lenSyn := 2, numEra := 3 } : State).lenSyn.toNat <
      ({ s16 with lenSyn := 2, numEra := 3 } : State).numEra.toNat) ∧
    ((fs16 []).lenWork.toNat ≤ s16.cfg.n ∧ (fs16 []).numEra.toNat ≤ (fs16 []).lenSyn.toNat) ∧
    (s16.UnwrittenAt .syn 4 0 ∧ (put s16 .syn [1, 16]).InvalidAt .syn 2 1) ∧
    ((fs16 [0]).SymsReady .syn 4 ∧ (fs16 [0]).PosUnwrittenAt .era 2 15 1) ∧
    ((fs16 [0, 15]).PosBadAt .era 2 15 1) ∧
    ((fs16 [0, 14]).SymsReady .syn 4 ∧ (fs16 [0, 14]).PositionsReady .era 2 15) ∧
    0 < [5, 8].length - 1 := by decide

theorem witness_ForneyOrderIndependent :
    (∀ v ∈ [12, 9, 6, 12], v < 2 ^ 4) ∧ 15 ≤ 2 ^ 4 - 1 ∧ (∀ p ∈ [0, 14], p < 15) ∧ [0, 14].Perm [14, 0] := by decide

/-! #### Locator and correction -/

/-- A BM state. -/
def bm16 (S : List Nat) : State := { put s16 .fsyn S with lenFsyn := BitVec.ofNat 32 S.length }

theorem witness_BmResult :
    (s16.configured = true ∧ 65536 < ({ s16 with lenFsyn := 65537 } : State).lenFsyn.toNat) ∧
    (({ s16 with lenFsyn := 65536 } : State).lenFsyn.toNat ≤ 65536 ∧
      ({ s16 with lenFsyn := 65536 } : State).UnwrittenAt .fsyn 65536 0) ∧
    (bm16 [1, 16]).InvalidAt .fsyn 2 1 ∧
    ((bm16 [1, 11, 9, 9]).SymsReady .fsyn 4 ∧
      4 < 2 * ((bmLocator s16.field ((bm16 [1, 11, 9, 9]).symsOf .fsyn 4)).length - 1)) ∧
    ((bm16 [8, 12, 1, 14]).SymsReady .fsyn 4 ∧
      2 * ((bmLocator s16.field ((bm16 [8, 12, 1, 14]).symsOf .fsyn 4)).length - 1) ≤ 4) ∧
    s16.SymsReady .fsyn 0 := by decide +kernel

/-- The rounds of FSYN = 8 12 1 14 (95_test_vectors section 2.6): a swap, no discrepancy, a swap, a fold alone. -/
theorem witness_BmResult_rounds :
    (0 < [8, 12, 1, 14].length ∧ 3 < [8, 12, 1, 14].length) ∧
    (discrepancy s16.field [8, 12, 1, 14] [1] 0 = 8 ∧ [1].length < [1, 0].length) ∧
    discrepancy s16.field [8, 12, 1, 14] [8, 1] 1 = 0 ∧
    (discrepancy s16.field [8, 12, 1, 14] [3, 8, 1] 3 = 1 ∧ [14, 5, 0].length ≤ [3, 8, 1].length) := by decide

theorem witness_BmInvariants :
    s16.field = { n := 2 ^ 4 - 1, exp := expTable (2 ^ 4 - 1) (2 ^ 4) 0x13, log := logTable (2 ^ 4 - 1) (2 ^ 4) 0x13 } ∧
    (∀ v ∈ [8, 12, 1, 14], v < 2 ^ 4) ∧ 4 ≤ [8, 12, 1, 14].length := by decide

/-- A CHIEN state. -/
def ch16 (loc : List Nat) (nmess : Word) : State :=
  { put s16 .loc loc with lenLoc := BitVec.ofNat 32 loc.length, lenWork := nmess }

theorem witness_ChienResult :
    (s16.configured = true ∧ s16.lenLoc.toNat = 0 ∧ 65536 < ({ s16 with lenLoc := 65537 } : State).lenLoc.toNat) ∧
    (1 ≤ (ch16 [1] 16).lenLoc.toNat ∧ (ch16 [1] 16).lenLoc.toNat ≤ 65536 ∧
      s16.cfg.n < (ch16 [1] 16).lenWork.toNat) ∧
    ((ch16 [1] 15).lenWork.toNat ≤ s16.cfg.n ∧ (ch16 [1] 15).UnwrittenAt .loc 2 1) ∧
    (ch16 [1, 16] 15).InvalidAt .loc 2 1 ∧
    ((ch16 [1, 1] 0).SymsReady .loc 2 ∧
      (chienPositions s16.field ((ch16 [1, 1] 0).symsOf .loc 2) 0).length ≠ 2 - 1) ∧
    ((ch16 [13, 13, 1] 15).SymsReady .loc 3 ∧
      (chienPositions s16.field ((ch16 [13, 13, 1] 15).symsOf .loc 3) 15).length = 3 - 1) := by decide +kernel

/-- CORRECT's denominator at a position, for a list of positions of a 15-symbol codeword. -/
def den16 (pos : List Nat) (p : Nat) : Nat :=
  magnitudeDenominator s16.field (errataDerivative (errataLocator s16.field pos 15)) 15 p

theorem witness_CorrectResult_lengths :
    (s16.configured = true ∧ s16.cfg.n < ({ s16 with lenWork := 16 } : State).lenWork.toNat) ∧
    (s16.lenWork.toNat ≤ s16.cfg.n ∧ 65536 < ({ s16 with lenSyn := 65537 } : State).lenSyn.toNat ∧
      65536 < ({ s16 with numEra := 65537 } : State).numEra.toNat ∧
      65536 < ({ s16 with numErrpos := 65537 } : State).numErrpos.toNat) ∧
    (s16.lenSyn.toNat ≤ 65536 ∧ s16.numEra.toNat + s16.numErrpos.toNat = 0) ∧
    (({ traceC with numEra := 4 } : State).lenSyn.toNat <
      ({ traceC with numEra := 4 } : State).numEra.toNat + ({ traceC with numEra := 4 } : State).numErrpos.toNat) ∧
    (traceC.numEra.toNat + traceC.numErrpos.toNat ≠ 0 ∧
      traceC.numEra.toNat + traceC.numErrpos.toNat ≤ traceC.lenSyn.toNat ∧ traceC.lenWork.toNat ≤ traceC.cfg.n) := by
  decide +kernel

theorem witness_CorrectResult_symbols :
    (({ traceC with mem := [] } : State).UnwrittenAt .work 15 0 ∧ (put traceC .work [1, 16]).InvalidAt .work 15 1) ∧
    ((put s16 .work cw).SymsReady .work 15 ∧ (put s16 .work cw).UnwrittenAt .syn 3 0 ∧
      (put traceC .syn [16]).InvalidAt .syn 3 0) ∧
    (traceC.SymsReady .work 15 ∧ traceC.SymsReady .syn 3) := by decide +kernel

theorem witness_CorrectResult_positions :
    (traceC.PosUnwrittenAt .era 3 15 2 ∧ (put traceC .era [15]).PosBadAt .era 2 15 0) ∧
    (traceC.PositionsReady .era 2 15 ∧ traceC.PosUnwrittenAt .errpos 2 15 1 ∧
      (put traceC .errpos [15]).PosBadAt .errpos 1 15 0) ∧
    traceC.PositionsReady .errpos 1 15 := by decide +kernel

theorem witness_CorrectResult_derivative : 1 < [5, 4, 6, 1].length / 2 ∧ 0 < [13, 13, 1].length / 2 := by decide

theorem witness_CorrectResult_denominators :
    (∃ p ∈ [3, 3], den16 [3, 3] p = 0) ∧ ∀ p ∈ [0, 7, 12], den16 [0, 7, 12] p ≠ 0 := by decide

/-! #### Decode -/

/-- IN = the codeword, LEN_IN = 15. -/
def clean16 : State := { putIn s16 0 (cw.map (BitVec.ofNat 32)) with lenIn := 15 }

theorem witness_DecodeShortCircuit :
    clean16.Inv ∧ clean16.configured = true ∧ clean16.lenIn.toNat ≤ clean16.cfg.n ∧ clean16.ReceivedReady 15 ∧
    ((List.range 15).filter fun i => clean16.erasedAt i).length ≤ clean16.cfg.nsym ∧
    ∀ v ∈ syndromes clean16.field clean16.cfg.nsym
      ((List.range 15).map fun i => if clean16.erasedAt i then 0 else clean16.symAt .inp i), v = 0 := by decide +kernel

theorem witness_CleanBlockRoundTrip_premises :
    msg16.Inv ∧ msg16.configured = true ∧ Primitive msg16.cfg.n msg16.cfg.q msg16.cfg.prim ∧
    msg16.lenIn.toNat + msg16.cfg.nsym ≤ msg16.cfg.n ∧ msg16.MessageReady msg16.lenIn.toNat ∧
    holds (exec .encode msg16) (fun t =>
      decide (clean16.Inv) && clean16.configured && clean16.params == msg16.params && clean16.cfg == msg16.cfg &&
      clean16.lenIn == t.lenOut &&
      (List.range t.lenOut.toNat).all fun i => clean16.mem.entry? .inp i == t.mem.entry? .out i) = true := by
  decide +kernel

/-- Trace C: two erasures and one changed symbol, 2 + 2 = nsym. -/
theorem witness_DecodesWithinTheBound :
    holds (exec .encode msg16) (fun t =>
      decide (rx16.ReceivedReady t.lenOut.toNat) && rx16.configured && rx16.params == msg16.params &&
      rx16.cfg == msg16.cfg && rx16.lenIn == t.lenOut &&
      2 * ((List.range t.lenOut.toNat).filter fun i =>
          !rx16.erasedAt i && rx16.symAt .inp i != t.symAt .out i).length +
        ((List.range t.lenOut.toNat).filter fun i => rx16.erasedAt i).length == msg16.cfg.nsym) = true := by
  decide +kernel

/-! #### Whole-machine rules and frames: every command goes on from a state that meets the invariant -/

/-- The state of a test above (of no operands for NOP, of GF(16)'s for CONFIGURE) in which the command completes. -/
def ready : Instr → State
  | .nop => s16
  | .configure => { s16 with cfgN := 15, cfgK := 11 }
  | .gfMul | .gfDiv => { s16 with opA := 7, opB := 9 }
  | .gfExp => { s16 with opA := 29 }
  | .gfLog => { s16 with opA := 15 }
  | .polyScale | .polyEval => { put s16 .pa [3, 0, 5] with lenA := 3, opA := 2 }
  | .polyAdd => { put (put s16 .pa [5]) .pb [1, 2, 3] with lenA := 1, lenB := 3 }
  | .polyMul => { put (put s16 .pa [3, 0, 5]) .pb [2, 7] with lenA := 3, lenB := 2 }
  | .genPoly => s16
  | .encode => msg16
  | .load | .decode => rx16
  | .bm => { put s16 .fsyn [8, 12, 1, 14] with lenFsyn := 4 }
  | .chien => { put s16 .loc [13, 13, 1] with lenLoc := 3, lenWork := 15 }
  | .verify => { put s16 .work cw with lenWork := 15 }
  | .syndrome => put { s16 with lenWork := 15 } .work [0, 2, 3, 4, 5, 6, 7, 0, 9, 10, 11, 3, 6, 12, 12]
  | .forneySyn => fs16 [0, 7]
  | .correct => traceC

theorem traceC_inv : traceC.Inv := by decide +kernel

theorem rx16_inv : rx16.Inv := by decide +kernel

theorem ready_inv (i : Instr) : (ready i).Inv := by
  cases i
  case correct => exact traceC_inv
  case load => exact rx16_inv
  case decode => exact rx16_inv
  all_goals decide +kernel

theorem ready_completes (i : Instr) : exec i (ready i) = .next (after (exec i (ready i))) := by
  cases i
  case nop => exact eq_after (p := fun _ => true) (by decide)
  case configure => exact eq_after (p := fun _ => true) (by decide)
  case gfMul => exact eq_after test_gfMul
  case gfDiv => exact eq_after test_gfDiv
  case gfExp => exact eq_after test_gfExp_last
  case gfLog => exact eq_after test_gfLog
  case polyScale => exact eq_after test_polyScale
  case polyAdd => exact eq_after test_polyAdd
  case polyMul => exact eq_after test_polyMul
  case polyEval => exact eq_after test_polyEval
  case genPoly => exact eq_after test_genPoly
  case encode => exact eq_after test_encode
  case load => exact eq_after test_load
  case syndrome => exact eq_after test_syndrome
  case forneySyn => exact eq_after test_forneySyn
  case bm => exact eq_after test_bm
  case chien => exact eq_after test_chien
  case correct => exact eq_after test_correct
  case verify => exact eq_after test_verify
  case decode => exact eq_after test_decode

/-- The premises of FailureCodesOfEachCommand, CompletionReport and the frames, for every command. -/
theorem witness_every_command_completes (i : Instr) :
    (ready i).Inv ∧ (ready i).configured = true ∧ exec i (ready i) = .next (after (exec i (ready i))) :=
  ⟨ready_inv i, by cases i <;> rfl, ready_completes i⟩

theorem witness_FailedCommandChangesOnlyStatus :
    holds (exec .gfDiv s16) (fun t => t.code != .ok) = true ∧ Instr.gfDiv ≠ .decode ∧
    InEntries .inp 65536 0x040000 ∧ InEntries .inp 65536 0x07FFFF := by decide

theorem witness_OnlyTheTwoModelFaults :
    faults (step { busy16 0x41 with lenWork := 1 }) (.unwrittenRead .work 0) = true ∧
    faults (oneMove s16 (.read 0x06C 4 .discard)) (.hostBusError 0x06C) = true ∧
    faults (oneMove s16 (.write 0x00C 2 0)) (.hostBusError 0x00C) = true ∧
    faults (oneMove s16 (.poll 0x380000 1 0)) (.hostBusError 0x380000) = true := by decide

/-- A DECODE state of a short received block. -/
def short16 (ws : List Word) : State := { putIn s16 0 ws with lenIn := BitVec.ofNat 32 ws.length }

/-- DecodeFrame's clauses: a stop in LOAD, in BM, in CHIEN, and the short-circuit. -/
theorem witness_DecodeFrame_stops :
    ((short16 [E, E, E, E, E]).Inv ∧
      holds (exec .decode (short16 [E, E, E, E, E])) (fun t => t.code == .tooManyErasures) = true) ∧
    ((short16 [1, 1, 1]).Inv ∧
      holds (exec .decode (short16 [1, 1, 1])) (fun t => t.code == .tooManyErrors) = true) ∧
    ((short16 [1, 1, 2]).Inv ∧
      holds (exec .decode (short16 [1, 1, 2])) (fun t => t.code == .errorLocationFailure) = true) ∧
    ((short16 [0, 0]).Inv ∧ holds (exec .decode (short16 [0, 0])) (fun t => t.code == .ok) = true ∧
      ∀ v ∈ syndromes s16.field s16.cfg.nsym (workingCodeword ((short16 [0, 0]).receivedOf 2)), v = 0) := by
  decide +kernel

/-- Bytes just outside the entries a frame names. -/
theorem witness_frame_addresses :
    ¬ InEntries .pr 3 0x30000C ∧ ¬ InEntries .gen 5 0x240014 ∧ ¬ InEntries .out 15 0x08003C ∧
    ¬ InEntries .work 15 0x0C003C ∧ ¬ InEntries .era 2 0x1C0008 ∧ ¬ InEntries .syn 4 0x0FFFFF := by decide

/-! #### Host bus, interrupt, reset -/

theorem witness_bus_states :
    (s16.rst = false ∧ s16.busy = false) ∧ ((busy16 0).rst = false ∧ (busy16 0).busy = true) ∧
    (busy16 0).statusInv = true ∧ (s16.setRst true).rst = true := by decide

theorem witness_BusyAccess :
    (locate 0x00C 4).isSome = true ∧ (0x00C : Nat) ≠ 0x008 ∧ (locate 0x37FFFC 4).isSome = true ∧
    (locate 0x038 4).isSome = true ∧ (0x038 : Nat) ≠ 0x000 := by decide

/-- Each side of the ranges of R63. -/
theorem witness_BusErrorsExactly :
    (2 : Nat) ≠ 4 ∧ 0x002 % 4 ≠ 0 ∧ (0x00006C ≤ 0x00006C ∧ 0x00006C < 0x040000) ∧
    (0x00006C ≤ 0x03FFFC ∧ 0x03FFFC < 0x040000) ∧ 0x380000 ≤ 0x380000 ∧
    (0x000068 % 4 = 0 ∧ 0x000068 < 0x00006C) ∧ (0x040000 % 4 = 0 ∧ 0x040000 ≤ 0x040000 ∧ 0x040000 < 0x380000) ∧
    (0x37FFFC % 4 = 0 ∧ 0x040000 ≤ 0x37FFFC ∧ 0x37FFFC < 0x380000) := by decide

theorem witness_ReadsHaveNoSideEffects :
    (busRead (put s16 .out [5]) 0x080000 4 = .ok (5, put s16 .out [5]) ∧
      locate 0x080000 4 = some (.entry .out 0) ∧ ((put s16 .out [5]).mem.entry? .out 0).isSome = true) ∧
    (busRead s16 0x000 4 = .ok (0x52530007, s16) ∧ locate 0x000 4 = some (.reg .id)) ∧
    (locate 0x37FFFC 4 = some (.entry .pr 131071) ∧ 131071 < Buf.pr.depth ∧ s16.mem.entry? .pr 131071 = none) := by
  refine ⟨⟨rfl, ?_⟩, ⟨rfl, ?_⟩, ?_⟩ <;> decide

theorem witness_EntryWriteThenRead :
    s16.rst = false ∧ s16.busy = false ∧ 131071 < Buf.pr.depth ∧ 65535 < Buf.inp.depth ∧ 0 < Buf.syn.depth := by decide

/-- The store clauses of EntryWriteThenRead: the last entry stored, the one after it, and another buffer. -/
theorem witness_EntryWriteThenRead_store :
    [5, 65535].length ≤ Buf.syn.depth ∧ 1 < [5, 65535].length ∧ [5, 65535].getD 1 0 < 65536 ∧
    ([5, 65535].length ≤ 2 ∧ 2 < Buf.syn.depth) ∧ (Buf.out ≠ Buf.syn ∧ 65535 < Buf.out.depth) := by decide

theorem witness_RegisterWriteThenRead :
    s16.rst = false ∧ s16.busy = false ∧ Reg.lenB ≠ Reg.lenA := by decide

theorem witness_ResetInputDiscardsCommand :
    ((busy16 0x4F).setRst true).rst = true ∧ (locate 0x00C 4).isSome = true := by decide

/-! #### The machine -/

/-- StepKeepsInvariant at an engine's step and at a host's. -/
theorem witness_StepKeepsInvariant :
    ((busy16 0x30).Inv ∧ step (busy16 0x30) = .next (after (step (busy16 0x30)))) ∧
    (({ s16 with host := [.write 0x040000 4 0xFFFFFFFF] } : State).Inv ∧
      oneMove s16 (.write 0x040000 4 0xFFFFFFFF) = .next (after (oneMove s16 (.write 0x040000 4 0xFFFFFFFF)))) :=
  ⟨⟨by decide, eq_after (p := fun _ => true) (by decide)⟩, ⟨by decide, eq_after (p := fun _ => true) (by decide)⟩⟩

/-- FlagDiscipline: each flag's rise and fall happens in some step. -/
theorem witness_FlagDiscipline :
    (s16.engineTurn = false ∧ holds (oneMove s16 (.write 0x00C 4 0)) (fun t => t.busy) = true) ∧
    ((busy16 0).engineTurn = true ∧ holds (step (busy16 0)) (fun t => !t.busy && t.done) = true) ∧
    holds (oneMove { s16 with done := true } (.write 0x00C 4 0)) (fun t => !t.done) = true ∧
    holds (oneMove { s16 with done := true } (.write 0x008 4 2)) (fun t => !t.done) = true ∧
    holds (step { State.reset with busy := true, pending := 1, cfgN := 3 }) (fun t => t.configured) = true ∧
    holds (step (busy16 0)) (fun t => t.configured) = true ∧
    holds (oneMove { busy16 0 with wait := 1 } (.write 0x000 4 0)) (fun t => t.ovr) = true ∧
    holds (oneMove { s16 with ovr := true } (.write 0x008 4 8)) (fun t => !t.ovr) = true ∧
    holds (step (busy16 0x100)) (fun t => t.code == .illegalCommand) = true ∧
    holds (oneMove { s16 with code := .illegalCommand } (.write 0x00C 4 0)) (fun t => t.code == .ok) = true := by
  decide

theorem witness_LatchedCommandRunsWithinBound :
    (busy16 0x4F).rst = false ∧ (busy16 0x4F).busy = true ∧
    ({ busy16 0x4F with host := [waitOp], wait := 2 } : State).host = waitOp :: [] ∧
    (({ busy16 0x4F with host := [.waitIrq], wait := 2 } : State).statusInv = true ∧
      ({ busy16 0x4F with host := [.waitIrq], wait := 2 } : State).host = .waitIrq :: [] ∧
      ({ busy16 0x4F with host := [.waitIrq], wait := 2 } : State).engineTurn = false) ∧
    (s16.engineTurn = false ∧ ({ s16 with host := [.waitIrq] } : State).host = .waitIrq :: []) := by decide

end Sys2Proof.Tests
end

section
/-! SUPPORT. What the engine's pseudocode can do to buffer memory and how it can stop (00_scope R14 to R16): every
read is of the memory before the command, and every write is to a buffer other than IN. -/

namespace Sys2Proof.Machine

/-! ### Written flags are never cleared (10_state R40) -/

theorem Memory.read?_setEntry_isSome {m : Memory} {a : Nat} (b : Buf) (i : Nat) (w : Word)
    (h : (m.read? a).isSome) : ((m.setEntry b i w).read? a).isSome :=
  read?_write_isSome _ _ (read?_write_isSome _ _ (read?_write_isSome _ _ (read?_write_isSome _ _ h)))

theorem Memory.read?_storeFrom_isSome {m : Memory} {a : Nat} (b : Buf) (i : Nat) (vs : List Nat)
    (h : (m.read? a).isSome) : ((m.storeFrom b i vs).read? a).isSome := by
  induction vs generalizing m i with
  | nil => exact h
  | cons v vs ih => exact ih (i + 1) (read?_setEntry_isSome b i _ h)

theorem Memory.read?_store_isSome {m : Memory} {a : Nat} (b : Buf) (vs : List Nat)
    (h : (m.read? a).isSome) : ((m.store b vs).read? a).isSome :=
  read?_storeFrom_isSome b 0 vs h

/-- A word is written exactly when its four bytes are. -/
theorem Memory.readWord?_isSome_iff (m : Memory) (a : Nat) :
    (m.readWord? a).isSome ↔
      (m.read? a).isSome ∧ (m.read? (a + 1)).isSome ∧ (m.read? (a + 2)).isSome ∧ (m.read? (a + 3)).isSome := by
  unfold Memory.readWord?
  cases m.read? a <;> cases m.read? (a + 1) <;> cases m.read? (a + 2) <;> cases m.read? (a + 3) <;> simp

theorem Memory.entry?_store_isSome {m : Memory} {c : Buf} {j : Nat} (b : Buf) (vs : List Nat)
    (h : (m.entry? c j).isSome) : ((m.store b vs).entry? c j).isSome := by
  obtain ⟨h0, h1, h2, h3⟩ := (m.readWord?_isSome_iff _).1 h
  exact (Memory.readWord?_isSome_iff _ _).2
    ⟨read?_store_isSome b vs h0, read?_store_isSome b vs h1, read?_store_isSome b vs h2, read?_store_isSome b vs h3⟩

/-! ### The engine's writes -/

/-- `m'` comes from `m` by engine writes to buffers other than IN. -/
inductive EngineWrites (m : Memory) : Memory → Prop
  | refl : EngineWrites m m
  | store {m' : Memory} {b : Buf} (h : EngineWrites m m') (hb : b ≠ .inp) (vs : List Nat) :
      EngineWrites m (m'.store b vs)

theorem EngineWrites.trans {m m' m'' : Memory} (h : EngineWrites m m') (h' : EngineWrites m' m'') :
    EngineWrites m m'' := by
  induction h' with
  | refl => exact h
  | store _ hb vs ih => exact ih.store hb vs

/-- IN lies below every other buffer (10_state R36). -/
theorem Buf.inp_below {b : Buf} (h : b ≠ .inp) : Buf.inp.base + 4 * Buf.inp.depth ≤ b.base := by
  revert h; cases b <;> decide

theorem EngineWrites.read?_inp {m m' : Memory} (h : EngineWrites m m') {a : Nat}
    (ha : InEntries .inp Buf.inp.depth a) : m'.read? a = m.read? a := by
  induction h with
  | refl => rfl
  | store _ hb vs ih =>
    rw [Memory.read?_store_other _ _ _ (.inl (lt_of_lt_of_le ha.2 (Buf.inp_below hb))), ih]

/-- An entry unwritten after engine writes was unwritten before them. -/
theorem EngineWrites.unwritten_before {m m' : Memory} (h : EngineWrites m m') {b : Buf} {i : Nat}
    (hn : m'.entry? b i = none) : m.entry? b i = none := by
  induction h with
  | refl => exact hn
  | store _ _ vs ih =>
    refine ih (Option.not_isSome_iff_eq_none.1 fun hw => ?_)
    exact Option.not_isSome_iff_eq_none.2 hn (Memory.entry?_store_isSome _ vs hw)

/-! ### How pseudocode ends -/

/-- A computation on memory `m` ends with a value that has `P`, fails (R14), or stops at an entry unwritten in `m`
(R16). -/
inductive Yields {α : Type} (m : Memory) (P : α → Prop) : Except Stop α → Prop
  | ok {a : α} (h : P a) : Yields m P (.ok a)
  | fail (c : StatusCode) : Yields m P (.error (.fail c))
  | unwritten {b : Buf} {i : Nat} (h : m.entry? b i = none) : Yields m P (.error (.fault (.unwrittenRead b i)))

/-- A computation that only reads memory `m`; nothing is said of the value it gives. -/
abbrev OnlyReads {α : Type} (m : Memory) (x : Except Stop α) : Prop := Yields m (fun _ => True) x

theorem Yields.bind {α β : Type} {m : Memory} {P : α → Prop} {Q : β → Prop} {x : Except Stop α}
    {k : α → Except Stop β} (hx : Yields m P x) (hk : ∀ a, P a → Yields m Q (k a)) : Yields m Q (x >>= k) := by
  cases hx with
  | ok h => exact hk _ h
  | fail c => exact .fail c
  | unwritten h => exact .unwritten h

/-- Peel one line of pseudocode that only reads. -/
theorem OnlyReads.bind {α β : Type} {m : Memory} {Q : β → Prop} {x : Except Stop α} {k : α → Except Stop β}
    (hx : OnlyReads m x) (hk : ∀ a, Yields m Q (k a)) : Yields m Q (x >>= k) :=
  Yields.bind hx fun a _ => hk a

theorem onlyReads_ok {α : Type} {m : Memory} (a : α) : OnlyReads m (.ok a) := .ok trivial

theorem onlyReads_failIf {m : Memory} {p : Prop} [Decidable p] {c : StatusCode} : OnlyReads m (failIf p c) := by
  unfold failIf
  split
  · exact .fail c
  · exact .ok trivial

theorem onlyReads_readEntry (s : State) (b : Buf) (i : Nat) : OnlyReads s.mem (readEntry s b i) := by
  unfold readEntry
  split
  · exact .ok trivial
  · exact .unwritten ‹_›

theorem onlyReads_readRange {α : Type} {m : Memory} {rd : Nat → Except Stop α} (h : ∀ i, OnlyReads m (rd i))
    (i k : Nat) : OnlyReads m (readRange rd i k) := by
  induction k generalizing i with
  | zero => exact .ok trivial
  | succ k ih => exact (h i).bind fun _ => (ih (i + 1)).bind fun _ => .ok trivial

/-! ### Operands (40_field_engine R111, 41_polynomial R149) -/

theorem onlyReads_scalarSym (s : State) (r : Word) {m : Memory} : OnlyReads m (scalarSym s r) :=
  onlyReads_failIf.bind fun _ => onlyReads_ok _

theorem onlyReads_readLen (r : Word) {m : Memory} : OnlyReads m (readLen r) :=
  onlyReads_failIf.bind fun _ => onlyReads_ok _

theorem onlyReads_readNmess (s : State) {m : Memory} : OnlyReads m (readNmess s) :=
  onlyReads_failIf.bind fun _ => onlyReads_ok _

theorem onlyReads_readSym (s : State) (b : Buf) (i : Nat) : OnlyReads s.mem (readSym s b i) :=
  (onlyReads_readEntry s b i).bind fun _ => onlyReads_failIf.bind fun _ => onlyReads_ok _

theorem onlyReads_readPos (s : State) (limit : Nat) (b : Buf) (i : Nat) : OnlyReads s.mem (readPos s limit b i) :=
  (onlyReads_readEntry s b i).bind fun _ => onlyReads_failIf.bind fun _ => onlyReads_ok _

theorem onlyReads_readSyms (s : State) (b : Buf) (L : Nat) : OnlyReads s.mem (readSyms s b L) :=
  onlyReads_readRange (onlyReads_readSym s b) 0 L

theorem onlyReads_readPositions (s : State) (limit : Nat) (b : Buf) (L : Nat) :
    OnlyReads s.mem (readPositions s limit b L) :=
  onlyReads_readRange (onlyReads_readPos s limit b) 0 L

theorem onlyReads_readRaw (s : State) (b : Buf) (L : Nat) : OnlyReads s.mem (readRaw s b L) :=
  onlyReads_readRange (fun i => (onlyReads_readEntry s b i).bind fun _ => onlyReads_ok _) 0 L

theorem onlyReads_readIn (s : State) (i : Nat) : OnlyReads s.mem (readIn s i) :=
  (onlyReads_readEntry s .inp i).bind fun _ => onlyReads_ok _

theorem onlyReads_readReceived (s : State) (i : Nat) : OnlyReads s.mem (readReceived s i) := by
  refine (onlyReads_readIn s i).bind fun ⟨e, v⟩ => ?_
  cases e with
  | true => exact onlyReads_ok _
  | false => exact onlyReads_failIf.bind fun _ => onlyReads_ok _

theorem onlyReads_readMessageSym (s : State) (i : Nat) : OnlyReads s.mem (readMessageSym s i) :=
  (onlyReads_readIn s i).bind fun _ => onlyReads_failIf.bind fun _ => onlyReads_failIf.bind fun _ => onlyReads_ok _

/-! ### Functions that can fail -/

theorem onlyReads_gfDiv (f : Field) (x y : Nat) {m : Memory} : OnlyReads m (gfDiv f x y) :=
  onlyReads_failIf.bind fun _ => onlyReads_ok _

theorem onlyReads_chien (f : Field) (loc : List Nat) (nmess : Nat) {m : Memory} :
    OnlyReads m (chien f loc nmess) :=
  onlyReads_failIf.bind fun _ => onlyReads_ok _

theorem onlyReads_magnitudes (f : Field) (om der : List Nat) (nmess : Nat) (pos : List Nat) {m : Memory} :
    OnlyReads m (magnitudes f om der nmess pos) := by
  induction pos with
  | nil => exact onlyReads_ok _
  | cons p ps ih => exact (onlyReads_gfDiv ..).bind fun _ => ih.bind fun _ => onlyReads_ok _

theorem onlyReads_correctedCodeword (f : Field) (w S pos : List Nat) (nmess : Nat) {m : Memory} :
    OnlyReads m (correctedCodeword f w S pos nmess) :=
  (onlyReads_magnitudes ..).bind fun _ => onlyReads_ok _

/-! ### The commands' pseudocode -/

/-- Pseudocode that reads the memory it starts from and, when it ends well, has written only buffers other than
IN. -/
abbrev EngineCode (body : State → Except Stop State) : Prop :=
  ∀ s, Yields s.mem (fun t => EngineWrites s.mem t.mem) (body s)

/-- Pseudocode behind the NOT_CONFIGURED check. -/
theorem EngineCode.configured {body : State → Except Stop State} (h : EngineCode body) :
    EngineCode (fun s => do needConfigured s; body s) :=
  fun s => onlyReads_failIf.bind fun _ => h s

theorem engineCode_pure : EngineCode (fun s => pure s) := fun _ => .ok .refl

theorem engineCode_configureBody : EngineCode configureBody := fun _ =>
  onlyReads_failIf.bind fun _ => onlyReads_failIf.bind fun _ => .ok .refl

theorem engineCode_gfMulBody : EngineCode gfMulBody := fun s =>
  (onlyReads_scalarSym s _).bind fun _ => (onlyReads_scalarSym s _).bind fun _ => .ok .refl

theorem engineCode_gfDivBody : EngineCode gfDivBody := fun s =>
  (onlyReads_scalarSym s _).bind fun _ => (onlyReads_scalarSym s _).bind fun _ =>
  (onlyReads_gfDiv ..).bind fun _ => .ok .refl

theorem engineCode_gfExpBody : EngineCode gfExpBody := fun _ =>
  onlyReads_failIf.bind fun _ => .ok .refl

theorem engineCode_gfLogBody : EngineCode gfLogBody := fun _ =>
  onlyReads_failIf.bind fun _ => onlyReads_failIf.bind fun _ => .ok .refl

theorem engineCode_polyScaleBody : EngineCode polyScaleBody := fun s =>
  (onlyReads_readLen _).bind fun _ => (onlyReads_readSyms s ..).bind fun _ =>
  (onlyReads_scalarSym s _).bind fun _ => .ok (.store .refl (by decide) _)

theorem engineCode_polyAddBody : EngineCode polyAddBody := fun s =>
  (onlyReads_readLen _).bind fun _ => (onlyReads_readLen _).bind fun _ =>
  (onlyReads_readSyms s ..).bind fun _ => (onlyReads_readSyms s ..).bind fun _ =>
  .ok (.store .refl (by decide) _)

theorem engineCode_polyMulBody : EngineCode polyMulBody := fun s =>
  (onlyReads_readLen _).bind fun _ => (onlyReads_readLen _).bind fun _ =>
  (onlyReads_readSyms s ..).bind fun _ => (onlyReads_readSyms s ..).bind fun _ =>
  .ok (.store .refl (by decide) _)

theorem engineCode_polyEvalBody : EngineCode polyEvalBody := fun s =>
  (onlyReads_readLen _).bind fun _ => (onlyReads_readSyms s ..).bind fun _ =>
  (onlyReads_scalarSym s _).bind fun _ => .ok .refl

theorem engineCode_genPolyBody : EngineCode genPolyBody := fun _ => .ok (.store .refl (by decide) _)

theorem engineCode_encodeBody : EngineCode encodeBody := fun s =>
  onlyReads_failIf.bind fun _ => (onlyReads_readRange (onlyReads_readMessageSym s) ..).bind fun _ =>
  .ok (.store (.store .refl (by decide) _) (by decide) _)

theorem engineCode_loadBody : EngineCode loadBody := fun s =>
  onlyReads_failIf.bind fun _ => (onlyReads_readRange (onlyReads_readReceived s) ..).bind fun _ =>
  onlyReads_failIf.bind fun _ => .ok (.store (.store .refl (by decide) _) (by decide) _)

theorem engineCode_syndromeBody : EngineCode syndromeBody := fun s =>
  (onlyReads_readNmess s).bind fun _ => (onlyReads_readSyms s ..).bind fun _ =>
  .ok (.store .refl (by decide) _)

theorem engineCode_forneySynBody : EngineCode forneySynBody := fun s =>
  (onlyReads_readNmess s).bind fun _ => onlyReads_failIf.bind fun _ => onlyReads_failIf.bind fun _ =>
  (onlyReads_readSyms s ..).bind fun _ => (onlyReads_readPositions s ..).bind fun _ =>
  .ok (.store .refl (by decide) _)

theorem engineCode_bmBody : EngineCode bmBody := fun s =>
  onlyReads_failIf.bind fun _ => (onlyReads_readSyms s ..).bind fun _ =>
  onlyReads_failIf.bind fun _ => .ok (.store .refl (by decide) _)

theorem engineCode_chienBody : EngineCode chienBody := fun s =>
  onlyReads_failIf.bind fun _ => (onlyReads_readNmess s).bind fun _ =>
  (onlyReads_readSyms s ..).bind fun _ => (onlyReads_chien ..).bind fun _ =>
  .ok (.store .refl (by decide) _)

theorem engineCode_correctBody : EngineCode correctBody := by
  intro s
  refine (onlyReads_readNmess s).bind fun nmess => onlyReads_failIf.bind fun _ => onlyReads_failIf.bind fun _ => ?_
  dsimp only
  split
  · exact .ok .refl
  · exact onlyReads_failIf.bind fun _ =>
      (onlyReads_readSyms s ..).bind fun _ => (onlyReads_readSyms s ..).bind fun _ =>
      (onlyReads_readPositions s ..).bind fun _ => (onlyReads_readPositions s ..).bind fun _ =>
      (onlyReads_correctedCodeword ..).bind fun _ => .ok (.store .refl (by decide) _)

theorem engineWrites_writeMessage (s : State) (nmess : Nat) (w : List Nat) :
    EngineWrites s.mem (writeMessage s nmess w).mem :=
  .store .refl (by decide) _

theorem engineCode_verifyBody : EngineCode verifyBody := fun s =>
  (onlyReads_readNmess s).bind fun _ => (onlyReads_readSyms s ..).bind fun _ =>
  onlyReads_failIf.bind fun _ => .ok (engineWrites_writeMessage ..)

theorem engineCode_shortCircuit : EngineCode shortCircuit := fun s =>
  (onlyReads_readRaw s ..).bind fun _ => .ok (engineWrites_writeMessage ..)

theorem onlyReads_synAllZero (s : State) : OnlyReads s.mem (synAllZero s) :=
  (onlyReads_readRaw s ..).bind fun _ => onlyReads_ok _

/-! ### How a command ends -/

/-- A command begun on memory `m` completes, having written only buffers other than IN, or stops at an entry
unwritten in `m`; it is not refused. -/
inductive EngineResult (m : Memory) : Result → Prop
  | next {t : State} (h : EngineWrites m t.mem) : EngineResult m (.next t)
  | unwritten {b : Buf} {i : Nat} (h : m.entry? b i = none) : EngineResult m (.fault (.unwrittenRead b i))

theorem engineResult_command {body : State → Except Stop State} (h : EngineCode body) (s : State) :
    EngineResult s.mem (command s body) := by
  unfold command
  generalize body s = r, h s = hr
  cases hr with
  | ok hw => exact .next hw
  | fail c => exact .next .refl
  | unwritten hn => exact .unwritten hn

/-- A stage run on what earlier stages left of `m`. -/
theorem engineResult_runStage {m : Memory} {stage : State → Except Stop State} {s : State} {rest : State → Result}
    (h : EngineCode stage) (hm : EngineWrites m s.mem)
    (hrest : ∀ t, EngineWrites m t.mem → EngineResult m (rest t)) : EngineResult m (runStage stage s rest) := by
  unfold runStage
  generalize stage s = r, h s = hr
  cases hr with
  | ok hw => exact hrest _ (hm.trans hw)
  | fail c => exact .next hm
  | unwritten hn => exact .unwritten (hm.unwritten_before hn)

theorem engineResult_decodeErrata {m : Memory} {s : State} (hm : EngineWrites m s.mem) :
    EngineResult m (decodeErrata s) :=
  engineResult_runStage engineCode_forneySynBody hm fun _ h =>
  engineResult_runStage engineCode_bmBody h fun _ h =>
  engineResult_runStage engineCode_chienBody h fun _ h =>
  engineResult_runStage engineCode_correctBody h fun _ h =>
  engineResult_runStage engineCode_verifyBody h fun _ h => .next h

theorem engineResult_decodeStages {m : Memory} {s : State} (hm : EngineWrites m s.mem) :
    EngineResult m (decodeStages s) := by
  refine engineResult_runStage engineCode_loadBody hm fun _ h =>
    engineResult_runStage engineCode_syndromeBody h fun u h => ?_
  generalize synAllZero u = r, onlyReads_synAllZero u = hr
  cases hr with
  | @ok z _ =>
    cases z with
    | true => exact engineResult_runStage engineCode_shortCircuit h fun _ h => .next h
    | false => exact engineResult_decodeErrata h
  | fail c => exact .next h
  | unwritten hn => exact .unwritten (h.unwritten_before hn)

theorem engineResult_execDecode (s : State) : EngineResult s.mem (execDecode s) :=
  engineResult_runStage engineCode_pure.configured .refl fun _ h => engineResult_decodeStages h

/-- Every command but DECODE runs one piece of pseudocode. -/
theorem exec_eq_command {i : Instr} (hi : i ≠ .decode) :
    ∃ body, EngineCode body ∧ ∀ s, exec i s = command s body := by
  cases i with
  | nop => exact ⟨_, engineCode_pure, fun _ => rfl⟩
  | configure => exact ⟨_, engineCode_configureBody, fun _ => rfl⟩
  | gfMul => exact ⟨_, engineCode_gfMulBody.configured, fun _ => rfl⟩
  | gfDiv => exact ⟨_, engineCode_gfDivBody.configured, fun _ => rfl⟩
  | gfExp => exact ⟨_, engineCode_gfExpBody.configured, fun _ => rfl⟩
  | gfLog => exact ⟨_, engineCode_gfLogBody.configured, fun _ => rfl⟩
  | polyScale => exact ⟨_, engineCode_polyScaleBody.configured, fun _ => rfl⟩
  | polyAdd => exact ⟨_, engineCode_polyAddBody.configured, fun _ => rfl⟩
  | polyMul => exact ⟨_, engineCode_polyMulBody.configured, fun _ => rfl⟩
  | polyEval => exact ⟨_, engineCode_polyEvalBody.configured, fun _ => rfl⟩
  | genPoly => exact ⟨_, engineCode_genPolyBody.configured, fun _ => rfl⟩
  | encode => exact ⟨_, engineCode_encodeBody.configured, fun _ => rfl⟩
  | load => exact ⟨_, engineCode_loadBody.configured, fun _ => rfl⟩
  | syndrome => exact ⟨_, engineCode_syndromeBody.configured, fun _ => rfl⟩
  | forneySyn => exact ⟨_, engineCode_forneySynBody.configured, fun _ => rfl⟩
  | bm => exact ⟨_, engineCode_bmBody.configured, fun _ => rfl⟩
  | chien => exact ⟨_, engineCode_chienBody.configured, fun _ => rfl⟩
  | correct => exact ⟨_, engineCode_correctBody.configured, fun _ => rfl⟩
  | verify => exact ⟨_, engineCode_verifyBody.configured, fun _ => rfl⟩
  | decode => exact absurd rfl hi

theorem engineResult_exec (i : Instr) (s : State) : EngineResult s.mem (exec i s) := by
  by_cases hi : i = .decode
  · subst hi; exact engineResult_execDecode s
  · obtain ⟨body, hb, he⟩ := exec_eq_command hi
    rw [he]; exact engineResult_command hb s

theorem exec_next_engineWrites {i : Instr} {s t : State} (h : exec i s = .next t) : EngineWrites s.mem t.mem := by
  have hr := engineResult_exec i s
  rw [h] at hr
  cases hr with
  | next hw => exact hw

theorem exec_fault_unwritten {i : Instr} {s : State} {f : Fault} (h : exec i s = .fault f) :
    ∃ b j, f = .unwrittenRead b j ∧ s.mem.entry? b j = none := by
  have hr := engineResult_exec i s
  rw [h] at hr
  cases hr with
  | unwritten hn => exact ⟨_, _, rfl, hn⟩

theorem exec_ne_refused (i : Instr) (s : State) (r : Refusal) : exec i s ≠ .refused r := by
  intro h
  have hr := engineResult_exec i s
  rw [h] at hr
  cases hr

/-- R14, R15: a command other than DECODE that completes with another code than OK failed as a whole. -/
theorem exec_next_of_code_ne_ok {i : Instr} {s t : State} (h : exec i s = .next t) (hi : i ≠ .decode)
    (hc : t.code ≠ .ok) : t = s.finish t.code := by
  obtain ⟨body, -, he⟩ := exec_eq_command hi
  rw [he] at h
  rcases command_cases h with ⟨u, -, rfl⟩ | ⟨c, -, rfl⟩
  · exact absurd rfl hc
  · rfl

/-! ### How a step stops -/

theorem busRead_eq_error {s : State} {a size : Nat} {f : Fault} (h : busRead s a size = .error f) :
    f = .hostBusError a ∧ locate a size = none := by
  unfold busRead at h
  split at h
  · cases h
  · cases h; exact ⟨rfl, ‹_›⟩

theorem busWrite_eq_error {s : State} {a size : Nat} {v : Word} {f : Fault} (h : busWrite s a size v = .error f) :
    f = .hostBusError a ∧ locate a size = none := by
  unfold busWrite at h
  split at h
  · cases h
  · cases h; exact ⟨rfl, ‹_›⟩

/-- Everything that stops a host move: a write, a read or a poll whose access addresses nothing (R63). -/
theorem hostMove_fault_cases {s : State} {op : HostOp} {f : Fault} (h : hostMove s op = .fault f) :
    ∃ a size, f = .hostBusError a ∧ locate a size = none ∧
      ((∃ v, op = .write a size v) ∨ (∃ use, op = .read a size use) ∨
        (size = 4 ∧ ∃ mask val, op = .poll a mask val)) := by
  cases op with
  | write a size v =>
    simp only [hostMove] at h
    split at h
    · cases h
    · cases h
      obtain ⟨hf, hl⟩ := busWrite_eq_error ‹_›
      exact ⟨a, size, hf, hl, .inl ⟨v, rfl⟩⟩
  | read a size use =>
    simp only [hostMove] at h
    split at h
    · cases h
    · cases h
      obtain ⟨hf, hl⟩ := busRead_eq_error ‹_›
      exact ⟨a, size, hf, hl, .inr (.inl ⟨use, rfl⟩)⟩
  | poll a mask val =>
    simp only [hostMove] at h
    split at h
    · cases h
    · cases h
      obtain ⟨hf, hl⟩ := busRead_eq_error ‹_›
      exact ⟨a, 4, hf, hl, .inr (.inr ⟨rfl, mask, val, rfl⟩)⟩
  | waitIrq => cases h
  | rst b => cases h

theorem hostMove_ne_refused (s : State) (op : HostOp) (r : Refusal) : hostMove s op ≠ .refused r := by
  cases op with
  | write a size v => simp only [hostMove]; split <;> simp
  | read a size use => simp only [hostMove]; split <;> simp
  | poll a mask val => simp only [hostMove]; split <;> simp
  | waitIrq => simp [hostMove]
  | rst b => simp [hostMove]

/-- Everything that stops a step: the command at the engine's turn, or the host's next move. -/
theorem step_fault_cases {s : State} {f : Fault} (h : step s = .fault f) :
    (s.engineTurn = true ∧ ∃ i, exec i s = .fault f) ∨
    (s.engineTurn = false ∧ ∃ op rest, s.host = op :: rest ∧
      hostMove { s with host := rest, wait := s.wait - 1 } op = .fault f) := by
  cases he : s.engineTurn with
  | true =>
    rw [step_of_engineTurn he] at h
    cases hd : decodeWord s.pending with
    | ok i => exact .inl ⟨rfl, i, by rwa [runPending_of_decode hd] at h⟩
    | error e => rw [runPending_of_illegal hd] at h; cases h
  | false =>
    rw [step_of_hostTurn he] at h
    cases hh : s.host with
    | nil => simp [hostTurn, hh] at h
    | cons op rest => exact .inr ⟨rfl, op, rest, rfl, by simpa [hostTurn, hh] using h⟩

theorem step_ne_refused (s : State) (r : Refusal) : step s ≠ .refused r := by
  cases he : s.engineTurn with
  | true =>
    rw [step_of_engineTurn he]
    cases hd : decodeWord s.pending with
    | ok i => rw [runPending_of_decode hd]; exact exec_ne_refused i s r
    | error e => rw [runPending_of_illegal hd]; simp
  | false =>
    rw [step_of_hostTurn he]
    unfold hostTurn
    split
    · simp
    · exact hostMove_ne_refused _ _ r

end Sys2Proof.Machine
end

section
/-! PROOFS. The statements of 00_scope. -/

namespace Sys2Proof.Machine

/-- Settles O37: a command other than DECODE is one `command`, whose writes are kept on OK only, and no engine write
is to IN. -/
theorem failedCommandChangesOnlyStatus : Obligations.FailedCommandChangesOnlyStatus :=
  ⟨fun _ _ _ h hi hc => exec_next_of_code_ne_ok h hi hc,
    fun _ _ _ h _ ha => (exec_next_engineWrites h).read?_inp ha⟩

/-- Settles O40: the engine's faults are those of its entry reads, and no write of an earlier stage of DECODE clears
a written flag; the host's are those of `locate`. -/
theorem onlyTheTwoModelFaults : Obligations.OnlyTheTwoModelFaults := by
  refine fun s => ⟨fun f h => ?_, step_ne_refused s, fun i => exec_ne_refused i s⟩
  rcases step_fault_cases h with ⟨he, i, hx⟩ | ⟨he, op, rest, hh, hm⟩
  · obtain ⟨b, j, hf, hn⟩ := exec_fault_unwritten hx
    exact .inl ⟨b, j, hf, hn, he⟩
  · obtain ⟨a, size, hf, hl, hop⟩ := hostMove_fault_cases hm
    exact .inr ⟨a, size, op, rest, hf, hl, he, hh, hop⟩

end Sys2Proof.Machine
end

section
/-! SUPPORT. What a command's pseudocode may do to the state besides buffer memory (10_state R24, R33), the ranges of
what it writes, and the two ways a command ends: what no command but CONFIGURE changes, and CONFIGURE. -/

namespace Sys2Proof.Machine

/-! ### What no pseudocode writes -/

/-- The state with the fields that pseudocode other than CONFIGURE's writes, and STATUS's own, set aside: what is left
is what such a command keeps. -/
def State.kept (s : State) : State :=
  { s with
    busy := false, done := false, code := .ok, result := 0, lenOut := 0, lenWork := 0, lenSyn := 0, lenFsyn := 0
    lenLoc := 0, numEra := 0, numErrpos := 0, lenGen := 0, lenR := 0, mem := [] }

/-- What CONFIGURE keeps as well: the host's side (R24) and the model's own fields. -/
def State.hostSide (s : State) : State :=
  { s.kept with cfg := Cfg.zero, exp := [], log := [], configured := false }

theorem State.hostSide_of_kept {s t : State} (h : t.kept = s.kept) : t.hostSide = s.hostSide := by
  simp only [State.hostSide, h]

/-! ### Ranges -/

/-- What the configuration bounds: the lengths and positions a codeword has, and the values in the tables. -/
structure State.Bounded (s : State) : Prop where
  n_lt    : s.cfg.n < 65536
  nsym_le : s.cfg.nsym ≤ s.cfg.n
  exp_lt  : ∀ i, s.field.expAt i < 65536
  log_lt  : ∀ x, s.field.logAt x < 65536

theorem State.Bounded.of_kept {s t : State} (h : t.kept = s.kept) (hs : s.Bounded) : t.Bounded := by
  have hc : t.kept.cfg = s.kept.cfg := congrArg State.cfg h
  have hf : t.kept.field = s.kept.field := congrArg State.field h
  exact ⟨hc ▸ hs.n_lt, hc ▸ hs.nsym_le, hf ▸ hs.exp_lt, hf ▸ hs.log_lt⟩

theorem zext32_toNat_le (n : Nat) : (zext32 n).toNat ≤ n := Nat.mod_le n _

/-- A product is 0 or an entry of EXP (R114). -/
theorem State.Bounded.gfMul_lt {s : State} (hs : s.Bounded) (x y : Nat) : gfMul s.field x y < 65536 := by
  unfold gfMul
  split
  · decide
  · exact hs.exp_lt _

/-- A quotient is 0 or an entry of EXP (R115). -/
theorem State.Bounded.gfQuot_lt {s : State} (hs : s.Bounded) (x y : Nat) : gfQuot s.field x y < 65536 := by
  unfold gfQuot
  split
  · decide
  · exact hs.exp_lt _

theorem State.Bounded.polyEval_lt {s : State} (hs : s.Bounded) {p : List Nat} (hp : ∀ c ∈ p, c < 65536) (x : Nat) :
    polyEval s.field p x < 65536 := by
  cases p with
  | nil => exact Nat.zero_lt_succ _
  | cons c cs =>
    refine List.foldlRecOn (motive := (· < 65536)) cs _ (hp c (by simp)) fun y _ d hd => ?_
    exact Nat.xor_lt_two_pow (n := 16) (hs.gfMul_lt y x) (hp d (by simp [hd]))

/-- Buffer memory in canonical form, every listed byte in its entry's format. -/
def Memory.Ok (m : Memory) : Prop := m.wf = true ∧ m.all cellOk = true

theorem State.memInv_iff (s : State) : s.memInv = true ↔ s.mem.Ok := by
  simp [State.memInv, Memory.Ok]

/-- The ranges of the registers only the engine writes (R29, R33). -/
structure State.LenOk (s : State) : Prop where
  out_le    : s.lenOut.toNat ≤ 65536
  gen_le    : s.lenGen.toNat ≤ 65536
  r_le      : s.lenR.toNat ≤ 131072
  result_lt : s.result.toNat < 65536

theorem State.lenInv_iff (s : State) : s.lenInv = true ↔ s.LenOk := by
  simp only [State.lenInv, Bool.and_eq_true, decide_eq_true_eq]
  exact ⟨fun ⟨⟨⟨h1, h2⟩, h3⟩, h4⟩ => ⟨h1, h2, h3, h4⟩, fun ⟨h1, h2, h3, h4⟩ => ⟨⟨⟨h1, h2⟩, h3⟩, h4⟩⟩

theorem Buf.base_mod_four (b : Buf) : b.base % 4 = 0 := by cases b <;> rfl

theorem byteLane_and (v w : Word) (j : Nat) : byteLane (v &&& w) j = byteLane v j &&& byteLane w j := by
  simp only [byteLane, BitVec.extractLsb'_and]

/-- A byte lane of a masked word, at its place in an entry, keeps the entry's format (R37 to R39). -/
theorem cellOk_lane (b : Buf) {i j : Nat} (hi : i < b.depth) (hj : j < 4) (w : Word) :
    cellOk (entryAddr b i + j, byteLane (w &&& b.mask) j) = true := by
  have hb := Buf.base_mod_four b
  have hmod : (entryAddr b i + j) % 4 = j := by unfold entryAddr; omega
  refine List.any_eq_true.2 ⟨b, by cases b <;> decide, ?_⟩
  simp only [hmod, laneMask, byteLane_and, Bool.and_eq_true, decide_eq_true_eq, beq_iff_eq]
  refine ⟨⟨?_, ?_⟩, by rw [BitVec.and_assoc, BitVec.and_self]⟩ <;> · unfold entryAddr; omega

theorem Memory.Ok.write {m : Memory} (h : m.Ok) {a : Nat} {v : Byte} (hc : cellOk (a, v) = true) : (m.write a v).Ok :=
  ⟨Memory.write_wf h.1 a v, List.all_eq_true.2 fun _ hx => (Memory.mem_write hx).elim (· ▸ hc)
    (List.all_eq_true.1 h.2 _)⟩

theorem Memory.Ok.setEntry {m : Memory} (h : m.Ok) {b : Buf} {i : Nat} (hi : i < b.depth) (w : Word) :
    (m.setEntry b i w).Ok :=
  (((h.write (cellOk_lane b hi (j := 0) (by decide) w)).write (cellOk_lane b hi (by decide) w)).write
    (cellOk_lane b hi (by decide) w)).write (cellOk_lane b hi (by decide) w)

theorem Memory.Ok.storeFrom {m : Memory} (h : m.Ok) {b : Buf} {i : Nat} {vs : List Nat}
    (hi : i + vs.length ≤ b.depth) : (m.storeFrom b i vs).Ok := by
  induction vs generalizing m i with
  | nil => exact h
  | cons v vs ih =>
    simp only [List.length_cons] at hi
    exact ih (h.setEntry (by omega) _) (by omega)

/-- A store that fits its buffer keeps the format of buffer memory. -/
theorem Memory.Ok.store {m : Memory} (h : m.Ok) {b : Buf} {vs : List Nat} (hl : vs.length ≤ b.depth) :
    (m.store b vs).Ok := h.storeFrom (by omega)

/-! ### What pseudocode does -/

/-- What pseudocode other than CONFIGURE's may do: it writes no field of the host's side or the configuration, and
within the configuration's bounds it keeps the format of memory and the ranges of the engine's registers. -/
structure BodyWrites (s t : State) : Prop where
  kept : t.kept = s.kept
  mem  : s.Bounded → s.mem.Ok → t.mem.Ok
  len  : s.Bounded → s.LenOk → t.LenOk

theorem BodyWrites.refl (s : State) : BodyWrites s s := ⟨rfl, fun _ h => h, fun _ h => h⟩

theorem BodyWrites.trans {s t u : State} (h : BodyWrites s t) (h' : BodyWrites t u) : BodyWrites s u :=
  ⟨h'.kept.trans h.kept, fun hb hm => h'.mem (hb.of_kept h.kept) (h.mem hb hm),
    fun hb hl => h'.len (hb.of_kept h.kept) (h.len hb hl)⟩

/-- Pseudocode that, when it ends well, has written only what `BodyWrites` allows. -/
abbrev WritesCode (body : State → Except Stop State) : Prop := ∀ s, Yields s.mem (BodyWrites s) (body s)

/-- A computation that reads memory, with a property of the value it gives. -/
theorem OnlyReads.post {α : Type} {m : Memory} {P : α → Prop} {x : Except Stop α} (h : OnlyReads m x)
    (hp : ∀ a, x = .ok a → P a) : Yields m P x := by
  cases h with
  | ok _ => exact .ok (hp _ rfl)
  | fail c => exact .fail c
  | unwritten hn => exact .unwritten hn

theorem Yields.eq_ok {α : Type} {m : Memory} {P : α → Prop} {x : Except Stop α} {a : α} (h : Yields m P x)
    (ha : x = .ok a) : P a := by
  subst ha; cases h; assumption

theorem yields_failIf {m : Memory} {p : Prop} [Decidable p] {c : StatusCode} :
    Yields m (fun _ => ¬p) (failIf p c) := onlyReads_failIf.post fun _ h => failIf_eq_ok.1 h

theorem yields_readLen (r : Word) {m : Memory} : Yields m (· ≤ 65536) (readLen r) :=
  yields_failIf.bind fun _ h => .ok (by omega)

theorem yields_readNmess (s : State) {m : Memory} :
    Yields m (fun L => L = s.lenWork.toNat ∧ L ≤ s.cfg.n) (readNmess s) :=
  yields_failIf.bind fun _ h => .ok ⟨rfl, by omega⟩

theorem yields_readRange {α : Type} {m : Memory} {rd : Nat → Except Stop α} (h : ∀ i, OnlyReads m (rd i))
    (i k : Nat) : Yields m (fun vs => vs.length = k) (readRange rd i k) :=
  (onlyReads_readRange h i k).post fun _ => readRange_length

theorem readSym_lt {s : State} {b : Buf} {i v : Nat} (h : readSym s b i = .ok v) : v < 65536 := by
  simp only [readSym, bind_eq_ok, pure_eq_ok, Except.ok.injEq] at h
  obtain ⟨w, -, -, -, rfl⟩ := h
  exact symField_lt w

theorem yields_readSyms (s : State) (b : Buf) (L : Nat) :
    Yields s.mem (fun vs => vs.length = L ∧ ∀ v ∈ vs, v < 65536) (readSyms s b L) :=
  (onlyReads_readSyms s b L).post fun _ h => ⟨readRange_length h, fun _ hv => by
    obtain ⟨j, hj, rfl⟩ := List.getElem_of_mem hv
    exact readSym_lt (readRange_getElem h hj)⟩

theorem yields_chien (f : Field) (loc : List Nat) (nmess : Nat) {m : Memory} :
    Yields m (fun pos => pos.length ≤ nmess) (chien f loc nmess) :=
  onlyReads_failIf.bind fun _ => .ok (chienPositions_length_le f loc nmess)

theorem yields_correctedCodeword (f : Field) (w S pos : List Nat) (nmess : Nat) {m : Memory} :
    Yields m (fun v => v.length = w.length) (correctedCodeword f w S pos nmess) :=
  (onlyReads_magnitudes ..).bind fun _ => .ok (applyErrata_length ..)

theorem encodeBlock_length_le (f : Field) (nsym : Nat) (msg : List Nat) :
    (encodeBlock f nsym msg).length ≤ msg.length + nsym := by
  simp only [encodeBlock, slice, List.length_append, List.length_take]
  omega

/-! ### The commands' pseudocode -/

/-- A body that writes RESULT only. -/
theorem BodyWrites.result {s : State} {v : Nat} (hv : s.Bounded → v < 65536) :
    BodyWrites s { s with result := zext32 v } :=
  ⟨rfl, fun _ h => h, fun hb h => ⟨h.out_le, h.gen_le, h.r_le, lt_of_le_of_lt (zext32_toNat_le v) (hv hb)⟩⟩

/-- A body that writes a polynomial to PR and its length to LEN_R. -/
theorem BodyWrites.product {s : State} {p : List Nat} {L : Nat} (hp : p.length ≤ 131072) (hL : L ≤ 131072) :
    BodyWrites s { s with mem := s.mem.store .pr p, lenR := zext32 L } :=
  ⟨rfl, fun _ h => h.store hp, fun _ h => ⟨h.out_le, h.gen_le, (zext32_toNat_le L).trans hL, h.result_lt⟩⟩

theorem bodyWrites_writeMessage {s : State} {nmess : Nat} (hn : nmess ≤ s.cfg.n) (w : List Nat) :
    BodyWrites s (writeMessage s nmess w) := by
  refine ⟨rfl, fun hb h => h.store ?_, fun hb h => ⟨?_, h.gen_le, h.r_le, h.result_lt⟩⟩
  · have := hb.n_lt; simp only [List.length_take, Buf.depth]; omega
  · have := hb.n_lt; have := zext32_toNat_le (nmess - s.cfg.nsym); simp only [writeMessage_lenOut]; omega

theorem writesCode_pure : WritesCode (fun s => pure s) := fun s => .ok (.refl s)

theorem writesCode_gfMulBody : WritesCode gfMulBody := fun s =>
  (onlyReads_scalarSym s _).bind fun _ => (onlyReads_scalarSym s _).bind fun _ => .ok (.result fun hb => hb.gfMul_lt ..)

theorem State.Bounded.gfDiv_lt {s : State} (hs : s.Bounded) {x y z : Nat} (h : gfDiv s.field x y = .ok z) :
    z < 65536 := by
  simp only [gfDiv, bind_eq_ok, pure_eq_ok, Except.ok.injEq] at h
  obtain ⟨-, -, rfl⟩ := h
  exact hs.gfQuot_lt x y

theorem writesCode_gfDivBody : WritesCode gfDivBody := fun s =>
  (onlyReads_scalarSym s _).bind fun _ => (onlyReads_scalarSym s _).bind fun _ =>
  Yields.bind ((onlyReads_gfDiv ..).post fun _ h hb => State.Bounded.gfDiv_lt hb h) fun _ h => .ok (.result h)

theorem writesCode_gfExpBody : WritesCode gfExpBody := fun _ =>
  onlyReads_failIf.bind fun _ => .ok (.result fun hb => hb.exp_lt _)

theorem writesCode_gfLogBody : WritesCode gfLogBody := fun _ =>
  onlyReads_failIf.bind fun _ => onlyReads_failIf.bind fun _ => .ok (.result fun hb => hb.log_lt _)

theorem writesCode_polyEvalBody : WritesCode polyEvalBody := fun s =>
  (onlyReads_readLen _).bind fun _ => (yields_readSyms s ..).bind fun _ hp =>
  (onlyReads_scalarSym s _).bind fun _ => .ok (.result fun hb => hb.polyEval_lt hp.2 _)

theorem writesCode_polyScaleBody : WritesCode polyScaleBody := fun s =>
  (yields_readLen _).bind fun _ hL => (yields_readSyms s ..).bind fun _ hp =>
  (onlyReads_scalarSym s _).bind fun _ => .ok (.product (by rw [polyScale_length]; omega) (by omega))

theorem writesCode_polyAddBody : WritesCode polyAddBody := fun s =>
  (yields_readLen _).bind fun _ ha => (yields_readLen _).bind fun _ hb =>
  (yields_readSyms s ..).bind fun _ hp => (yields_readSyms s ..).bind fun _ hr =>
  .ok (.product (by rw [polyAdd_length]; omega) (by omega))

theorem writesCode_polyMulBody : WritesCode polyMulBody := fun s =>
  (yields_readLen _).bind fun _ ha => (yields_readLen _).bind fun _ hb =>
  (yields_readSyms s ..).bind fun _ hp => (yields_readSyms s ..).bind fun _ hr =>
  .ok (.product (by rw [polyMul_length]; omega) (by omega))

theorem writesCode_genPolyBody : WritesCode genPolyBody := fun s => by
  refine .ok ⟨rfl, fun hb h => h.store ?_, fun hb h => ⟨h.out_le, ?_, h.r_le, h.result_lt⟩⟩
  all_goals have := hb.n_lt; have := hb.nsym_le
  · rw [generator_length]; simp only [Buf.depth]; omega
  · have := zext32_toNat_le (s.cfg.nsym + 1); dsimp only; omega

theorem writesCode_encodeBody : WritesCode encodeBody := fun s => by
  refine yields_failIf.bind fun _ hL => (yields_readRange (onlyReads_readMessageSym s) ..).bind fun msg hm => ?_
  refine .ok ⟨rfl, fun hb h => (h.store ?_).store ?_, fun hb h => ⟨?_, ?_, h.r_le, h.result_lt⟩⟩
  all_goals have := hb.n_lt; have := hb.nsym_le
  · rw [generator_length]; simp only [Buf.depth]; omega
  · have := encodeBlock_length_le s.field s.cfg.nsym msg; simp only [Buf.depth]; omega
  · have := zext32_toNat_le (s.lenIn.toNat + s.cfg.nsym); dsimp only; omega
  · have := zext32_toNat_le (s.cfg.nsym + 1); dsimp only; omega

theorem writesCode_loadBody : WritesCode loadBody := fun s => by
  refine yields_failIf.bind fun _ hL => (yields_readRange (onlyReads_readReceived s) ..).bind fun rx hrx =>
    onlyReads_failIf.bind fun _ => .ok ⟨rfl, fun hb h => (h.store ?_).store ?_, fun _ h => ⟨h.1, h.2, h.3, h.4⟩⟩
  all_goals have := hb.n_lt; simp only [Buf.depth]
  · rw [workingCodeword_length]; omega
  · have := erasuresFrom_length_le 0 rx; omega

theorem writesCode_syndromeBody : WritesCode syndromeBody := fun s =>
  (onlyReads_readNmess s).bind fun _ => (onlyReads_readSyms s ..).bind fun _ =>
  .ok ⟨rfl, fun hb h => h.store (by
    have := hb.n_lt; have := hb.nsym_le; rw [syndromes_length]; simp only [Buf.depth]; omega),
    fun _ h => ⟨h.1, h.2, h.3, h.4⟩⟩

theorem writesCode_forneySynBody : WritesCode forneySynBody := fun s =>
  (onlyReads_readNmess s).bind fun _ => yields_failIf.bind fun _ hL => onlyReads_failIf.bind fun _ =>
  (yields_readSyms s ..).bind fun _ hS => (onlyReads_readPositions s ..).bind fun _ =>
  .ok ⟨rfl, fun _ h => h.store (by rw [forney_length]; simp only [Buf.depth]; omega),
    fun _ h => ⟨h.1, h.2, h.3, h.4⟩⟩

theorem writesCode_bmBody : WritesCode bmBody := fun s =>
  yields_failIf.bind fun _ hL => (onlyReads_readSyms s ..).bind fun _ => yields_failIf.bind fun _ hE =>
  .ok ⟨rfl, fun _ h => h.store (by simp only [Buf.depth]; omega), fun _ h => ⟨h.1, h.2, h.3, h.4⟩⟩

theorem writesCode_chienBody : WritesCode chienBody := fun s =>
  onlyReads_failIf.bind fun _ => (yields_readNmess s).bind fun _ hn => (onlyReads_readSyms s ..).bind fun _ =>
  (yields_chien ..).bind fun _ hp =>
  .ok ⟨rfl, fun hb h => h.store (by have := hb.n_lt; simp only [Buf.depth]; omega),
    fun _ h => ⟨h.1, h.2, h.3, h.4⟩⟩

theorem writesCode_correctBody : WritesCode correctBody := by
  intro s
  refine (yields_readNmess s).bind fun nmess hn => onlyReads_failIf.bind fun _ => onlyReads_failIf.bind fun _ => ?_
  dsimp only
  split
  · exact .ok (.refl s)
  · exact onlyReads_failIf.bind fun _ =>
      (yields_readSyms s ..).bind fun _ hw => (onlyReads_readSyms s ..).bind fun _ =>
      (onlyReads_readPositions s ..).bind fun _ => (onlyReads_readPositions s ..).bind fun _ =>
      (yields_correctedCodeword ..).bind fun _ hv =>
      .ok ⟨rfl, fun hb h => h.store (by have := hb.n_lt; simp only [Buf.depth]; omega),
        fun _ h => ⟨h.1, h.2, h.3, h.4⟩⟩

theorem writesCode_verifyBody : WritesCode verifyBody := fun s =>
  (yields_readNmess s).bind fun _ hn => (onlyReads_readSyms s ..).bind fun _ =>
  onlyReads_failIf.bind fun _ => .ok (bodyWrites_writeMessage hn.2 _)

/-- The short-circuit follows SYNDROME, which checks the codeword's length. -/
theorem syndromeBody_lenWork_le {s t : State} (h : syndromeBody s = .ok t) : t.lenWork.toNat ≤ t.cfg.n :=
  Yields.eq_ok (P := fun t => t.lenWork.toNat ≤ t.cfg.n) (m := s.mem)
    ((yields_readNmess s).bind fun _ hn => (onlyReads_readSyms s ..).bind fun _ => .ok (hn.1 ▸ hn.2)) h

theorem shortCircuit_writes {s : State} (hn : s.lenWork.toNat ≤ s.cfg.n) :
    Yields s.mem (BodyWrites s) (shortCircuit s) :=
  (onlyReads_readRaw s ..).bind fun _ => .ok (bodyWrites_writeMessage hn _)

/-! ### How a command completes -/

/-- Where a command goes on, it completed on what pseudocode other than CONFIGURE's leaves. -/
def CompletesFrom (s : State) (r : Result) : Prop := ∀ t, r = .next t → ∃ u c, BodyWrites s u ∧ t = u.finish c

theorem completesFrom_finish {s u : State} (h : BodyWrites s u) (c : StatusCode) : CompletesFrom s (.next (u.finish c)) :=
  fun _ ht => ⟨u, c, h, by cases ht; rfl⟩

theorem completesFrom_command {body : State → Except Stop State} (h : WritesCode body) (s : State) :
    CompletesFrom s (command s body) := by
  intro t ht
  rcases command_cases ht with ⟨u, hu, rfl⟩ | ⟨c, -, rfl⟩
  · exact ⟨u, _, (h s).eq_ok hu, rfl⟩
  · exact ⟨s, c, .refl s, rfl⟩

theorem WritesCode.configured {body : State → Except Stop State} (h : WritesCode body) :
    WritesCode (fun s => do needConfigured s; body s) :=
  fun s => onlyReads_failIf.bind fun _ => h s

/-- A stage of DECODE run on what the earlier ones left. -/
theorem completesFrom_runStage {s u : State} {stage : State → Except Stop State} {rest : State → Result}
    (hu : BodyWrites s u) (hst : Yields u.mem (BodyWrites u) (stage u))
    (hrest : ∀ v, stage u = .ok v → BodyWrites s v → CompletesFrom s (rest v)) :
    CompletesFrom s (runStage stage u rest) := by
  intro t ht
  rcases runStage_cases ht with ⟨v, hv, hr⟩ | ⟨c, -, rfl⟩
  · exact hrest v hv (hu.trans (hst.eq_ok hv)) t hr
  · exact ⟨u, c, hu, rfl⟩

theorem completesFrom_decodeErrata {s u : State} (hu : BodyWrites s u) : CompletesFrom s (decodeErrata u) :=
  completesFrom_runStage hu (writesCode_forneySynBody _) fun _ _ h =>
  completesFrom_runStage h (writesCode_bmBody _) fun _ _ h =>
  completesFrom_runStage h (writesCode_chienBody _) fun _ _ h =>
  completesFrom_runStage h (writesCode_correctBody _) fun _ _ h =>
  completesFrom_runStage h (writesCode_verifyBody _) fun _ _ h => completesFrom_finish h _

theorem completesFrom_decodeStages {s u : State} (hu : BodyWrites s u) : CompletesFrom s (decodeStages u) := by
  refine completesFrom_runStage hu (writesCode_loadBody _) fun _ _ h =>
    completesFrom_runStage h (writesCode_syndromeBody _) fun v hv h => ?_
  generalize synAllZero v = z
  match z with
  | .ok true => exact completesFrom_runStage h (shortCircuit_writes (syndromeBody_lenWork_le hv)) fun _ _ h =>
      completesFrom_finish h _
  | .ok false => exact completesFrom_decodeErrata h
  | .error (.fail c) => exact completesFrom_finish h c
  | .error (.fault f) => exact fun _ ht => nomatch ht

theorem completesFrom_execDecode (s : State) : CompletesFrom s (execDecode s) :=
  completesFrom_runStage (.refl s) (writesCode_pure.configured s) fun _ _ h => completesFrom_decodeStages h

/-- Every command but CONFIGURE completes on what `BodyWrites` allows. -/
theorem completesFrom_exec {i : Instr} (hi : i ≠ .configure) (s : State) : CompletesFrom s (exec i s) := by
  cases i with
  | nop => exact completesFrom_command writesCode_pure s
  | configure => exact absurd rfl hi
  | gfMul => exact completesFrom_command writesCode_gfMulBody.configured s
  | gfDiv => exact completesFrom_command writesCode_gfDivBody.configured s
  | gfExp => exact completesFrom_command writesCode_gfExpBody.configured s
  | gfLog => exact completesFrom_command writesCode_gfLogBody.configured s
  | polyScale => exact completesFrom_command writesCode_polyScaleBody.configured s
  | polyAdd => exact completesFrom_command writesCode_polyAddBody.configured s
  | polyMul => exact completesFrom_command writesCode_polyMulBody.configured s
  | polyEval => exact completesFrom_command writesCode_polyEvalBody.configured s
  | genPoly => exact completesFrom_command writesCode_genPolyBody.configured s
  | encode => exact completesFrom_command writesCode_encodeBody.configured s
  | load => exact completesFrom_command writesCode_loadBody.configured s
  | syndrome => exact completesFrom_command writesCode_syndromeBody.configured s
  | forneySyn => exact completesFrom_command writesCode_forneySynBody.configured s
  | bm => exact completesFrom_command writesCode_bmBody.configured s
  | chien => exact completesFrom_command writesCode_chienBody.configured s
  | correct => exact completesFrom_command writesCode_correctBody.configured s
  | verify => exact completesFrom_command writesCode_verifyBody.configured s
  | decode => exact completesFrom_execDecode s

/-- Everything a successful CONFIGURE does (R112, R113). -/
theorem configureBody_eq_ok {s t : State} (h : configureBody s = .ok t) :
    s.cfgN.toNat + 1 ∈ qSet ∧ s.cfgK.toNat ≤ s.cfgN.toNat ∧
    t = { s with
      cfg := { n := s.cfgN.toNat, k := s.cfgK.toNat, q := s.cfgN.toNat + 1, m := Nat.log2 (s.cfgN.toNat + 1)
               nsym := s.cfgN.toNat - s.cfgK.toNat, prim := primOf s.params (Nat.log2 (s.cfgN.toNat + 1)) }
      exp := expTable s.cfgN.toNat (s.cfgN.toNat + 1) (primOf s.params (Nat.log2 (s.cfgN.toNat + 1)))
      log := logTable s.cfgN.toNat (s.cfgN.toNat + 1) (primOf s.params (Nat.log2 (s.cfgN.toNat + 1)))
      configured := true } := by
  simp only [configureBody, bind_eq_ok, failIf_eq_ok, pure_eq_ok, Except.ok.injEq] at h
  obtain ⟨-, hq, -, hk, rfl⟩ := h
  exact ⟨not_not.1 hq, not_lt.1 hk, rfl⟩

/-- Everything a command that goes on can do: it completes on what `BodyWrites` allows, or it is a CONFIGURE that
succeeded. -/
theorem exec_next_cases {i : Instr} {s t : State} (h : exec i s = .next t) :
    (∃ u c, BodyWrites s u ∧ t = u.finish c) ∨
    (i = .configure ∧ ∃ u, configureBody s = .ok u ∧ t = u.finish .ok) := by
  by_cases hi : i = .configure
  · subst hi
    rcases command_cases h with hu | ⟨c, -, rfl⟩
    · exact .inr ⟨rfl, hu⟩
    · exact .inl ⟨s, c, .refl s, rfl⟩
  · exact .inl (completesFrom_exec hi s t h)

end Sys2Proof.Machine
end

section
/-! SUPPORT. The tables' values under a constant of degree m (00_scope R8, 40_field_engine R113), so the bounds of a
configuration; and the machine's invariant over a command and over a host move. -/

namespace Sys2Proof.Machine

/-! ### The tables (40_field_engine R113) -/

/-- Below 2^(m+1), a number without bit m is below 2^m. -/
theorem lt_two_pow_of_and_eq_zero {m x : Nat} (hx : x < 2 ^ (m + 1)) (hb : x &&& 2 ^ m = 0) : x < 2 ^ m := by
  refine Nat.lt_pow_two_of_testBit x fun i hi => ?_
  rcases hi.eq_or_lt with rfl | hi
  · simpa [Nat.and_two_pow] using hb
  · exact Nat.testBit_lt_two_pow (hx.trans_le (Nat.pow_le_pow_right (by decide) hi))

/-- Doubling and reducing stays below q when the constant has degree m (R113). -/
theorem doubled_lt {m prim x : Nat} (hlo : 2 ^ m ≤ prim) (hhi : prim < 2 ^ (m + 1)) (hx : x < 2 ^ m) :
    doubled (2 ^ m) prim x < 2 ^ m := by
  have hx2 : 2 * x < 2 ^ (m + 1) := by omega
  unfold doubled
  split
  case isTrue h =>
    have hxor : (2 * x) ^^^ prim < 2 ^ (m + 1) := Nat.xor_lt_two_pow hx2 hhi
    refine lt_two_pow_of_and_eq_zero hxor ?_
    have hp : prim.testBit m = true := Nat.testBit_of_two_pow_le_and_two_pow_add_one_gt hlo hhi
    have h2x : (2 * x).testBit m = true := by simpa [Nat.and_two_pow] using h
    rw [Nat.and_two_pow, Nat.testBit_xor, h2x, hp, Bool.xor_self, Bool.toNat_false, Nat.zero_mul]
  case isFalse h => exact lt_two_pow_of_and_eq_zero hx2 (not_not.1 h)

theorem powersFrom_lt {m prim : Nat} (hlo : 2 ^ m ≤ prim) (hhi : prim < 2 ^ (m + 1)) {k x v : Nat}
    (hx : x < 2 ^ m) (hv : v ∈ powersFrom (2 ^ m) prim k x) : v < 2 ^ m := by
  induction k generalizing x with
  | zero => simp [powersFrom] at hv
  | succ k ih =>
    rcases List.mem_cons.1 hv with rfl | hv
    · exact hx
    · exact ih (doubled_lt hlo hhi hx) hv

/-- An entry of a list of small values, 0 past its end. -/
theorem getD_lt_of_forall {l : List Nat} {N : Nat} (h0 : 0 < N) (h : ∀ v ∈ l, v < N) (i : Nat) : l.getD i 0 < N := by
  rcases lt_or_ge i l.length with hi | hi
  · rw [List.getD_eq_getElem _ _ hi]; exact h _ (List.getElem_mem hi)
  · rw [List.getD_eq_default _ _ hi]; exact h0

theorem expTable_lt {m prim n : Nat} (hlo : 2 ^ m ≤ prim) (hhi : prim < 2 ^ (m + 1)) (hm : 1 ≤ m) (i : Nat) :
    (expTable n (2 ^ m) prim).getD i 0 < 2 ^ m := by
  refine getD_lt_of_forall (Nat.two_pow_pos m) (fun v hv => ?_) i
  refine powersFrom_lt hlo hhi (Nat.one_lt_two_pow (by omega)) (k := n) ?_
  simpa [expTable] using hv

/-- LOG holds indices of the powers it is filled with. -/
theorem logFill_lt {log : List Nat} {i N : Nat} {xs : List Nat} (h : ∀ v ∈ log, v < N) (hN : i + xs.length ≤ N) :
    ∀ v ∈ logFill log i xs, v < N := by
  induction xs generalizing log i with
  | nil => exact h
  | cons x xs ih =>
    simp only [List.length_cons] at hN
    refine ih (fun v hv => ?_) (by omega)
    split at hv
    · exact h v hv
    · rcases List.mem_or_eq_of_mem_set hv with hv | rfl
      · exact h v hv
      · omega

theorem logTable_lt {n : Nat} (hn : 0 < n) (q prim x : Nat) : (logTable n q prim).getD x 0 < n :=
  getD_lt_of_forall hn (logFill_lt (fun v hv => by rw [List.eq_of_mem_replicate hv]; exact hn) (by simp)) x

/-! ### The configuration (00_scope R8, 10_state R30) -/

theorem mem_qSet_iff {q : Nat} : q ∈ qSet ↔ ∃ m, 2 ≤ m ∧ m ≤ 16 ∧ q = 2 ^ m := by
  simp only [qSet, List.mem_map, List.mem_range]
  constructor
  · rintro ⟨i, hi, rfl⟩; exact ⟨i + 2, by omega, by omega, rfl⟩
  · rintro ⟨m, h2, h16, rfl⟩; exact ⟨m - 2, by omega, by rw [Nat.sub_add_cancel h2]⟩

/-- PRIM_TABLE(m) of well-formed parameters has degree m (R8). -/
theorem primOf_degree {p : Params} (hp : p.wellFormed = true) {m : Nat} (h2 : 2 ≤ m) (h16 : m ≤ 16) :
    2 ^ m ≤ primOf p m ∧ primOf p m < 2 ^ (m + 1) := by
  simp only [Params.wellFormed, Bool.and_eq_true, beq_iff_eq, List.all_eq_true] at hp
  obtain ⟨hl, hall⟩ := hp
  have hi : m - 2 < p.primTable.length := by omega
  have := hall (p.primTable[m - 2], m - 2) (List.mk_mem_zipIdx_iff_getElem?.2 (List.getElem?_eq_getElem hi))
  simp only [decide_eq_true_eq, show m - 2 + 2 = m by omega, show m - 2 + 3 = m + 1 by omega] at this
  rwa [primOf, List.getD_eq_getElem _ _ hi]

/-- What a successful CONFIGURE leaves, as propositions. -/
theorem State.cfgValid_iff (s : State) : s.cfgValid = true ↔
    s.cfg.q ∈ qSet ∧ s.cfg.q = s.cfg.n + 1 ∧ s.cfg.k ≤ s.cfg.n ∧ s.cfg.nsym = s.cfg.n - s.cfg.k ∧
    s.cfg.m = Nat.log2 s.cfg.q ∧ s.cfg.prim = primOf s.params s.cfg.m ∧
    s.exp = expTable s.cfg.n s.cfg.q s.cfg.prim ∧ s.log = logTable s.cfg.n s.cfg.q s.cfg.prim := by
  simp only [State.cfgValid, Bool.and_eq_true, List.contains_iff_mem, beq_iff_eq, decide_eq_true_eq, and_assoc]

theorem State.cfgInv_of_configured {s : State} (h : s.configured = true) : s.cfgInv = s.cfgValid := by
  simp [State.cfgInv, h]

theorem State.cfgInv_of_unconfigured {s : State} (h : s.configured = false) :
    s.cfgInv = true ↔ s.cfg = Cfg.zero ∧ s.exp = [] ∧ s.log = [] := by
  simp [State.cfgInv, h, and_assoc]

theorem State.Bounded.of_cfgValid {s : State} (hp : s.params.wellFormed = true) (hv : s.cfgValid = true) :
    s.Bounded := by
  obtain ⟨hq, hqn, -, hnsym, hm, hprim, hexp, hlog⟩ := s.cfgValid_iff.1 hv
  obtain ⟨m, h2, h16, hqm⟩ := mem_qSet_iff.1 hq
  have hm' : s.cfg.m = m := by rw [hm, hqm, Nat.log2_two_pow]
  have hq4 : 2 ^ 2 ≤ 2 ^ m := Nat.pow_le_pow_right (by decide) h2
  have hq16 : 2 ^ m ≤ 2 ^ 16 := Nat.pow_le_pow_right (by decide) h16
  have hn : 0 < s.cfg.n ∧ s.cfg.n < 65536 := by omega
  obtain ⟨hlo, hhi⟩ := primOf_degree hp h2 h16
  rw [hm'] at hprim
  refine ⟨hn.2, by omega, fun i => ?_, fun x => ?_⟩
  · have := expTable_lt (n := s.cfg.n) hlo hhi (by omega) i
    simp only [State.field, Field.expAt, hexp, hqm, hprim]
    omega
  · have := logTable_lt hn.1 s.cfg.q s.cfg.prim x
    simp only [State.field, Field.logAt, hlog]
    omega

/-- The bounds hold configured or not (R30). -/
theorem State.Bounded.of_cfgInv {s : State} (hp : s.params.wellFormed = true) (hc : s.cfgInv = true) : s.Bounded := by
  cases h : s.configured with
  | true => exact .of_cfgValid hp (State.cfgInv_of_configured h ▸ hc)
  | false =>
    obtain ⟨hz, he, hl⟩ := (State.cfgInv_of_unconfigured h).1 hc
    constructor <;> simp [State.field, Field.expAt, Field.logAt, hz, he, hl, Cfg.zero]

/-! ### The invariant over a command -/

theorem State.statusInv_finish (s : State) (c : StatusCode) : (s.finish c).statusInv = true := by
  simp [State.statusInv]

theorem State.Inv.finish {s : State} (hs : s.Inv) (c : StatusCode) : (s.finish c).Inv := by
  obtain ⟨hp, hc, -, hm, hl⟩ := hs
  exact ⟨hp, hc, s.statusInv_finish c, hm, hl⟩

/-- Completion on what `BodyWrites` allows keeps the invariant. -/
theorem BodyWrites.inv_finish {s u : State} (h : BodyWrites s u) (hs : s.Inv) (c : StatusCode) : (u.finish c).Inv := by
  obtain ⟨hp, hc, -, hm, hl⟩ := hs
  have hb := State.Bounded.of_cfgInv hp hc
  have hparams : u.kept.params = s.kept.params := congrArg State.params h.kept
  have hcfg : u.kept.cfgInv = s.kept.cfgInv := congrArg State.cfgInv h.kept
  exact ⟨hparams ▸ hp, hcfg ▸ hc, u.statusInv_finish c, u.memInv_iff.2 (h.mem hb (s.memInv_iff.1 hm)),
    u.lenInv_iff.2 (h.len hb (s.lenInv_iff.1 hl))⟩

theorem configureBody_inv_finish {s u : State} (h : configureBody s = .ok u) (hs : s.Inv) (c : StatusCode) :
    (u.finish c).Inv := by
  obtain ⟨hp, -, -, hm, hl⟩ := hs
  obtain ⟨hq, hk, rfl⟩ := configureBody_eq_ok h
  refine ⟨hp, ?_, State.statusInv_finish _ c, hm, hl⟩
  exact (State.cfgInv_of_configured rfl).trans
    ((State.cfgValid_iff _).2 ⟨hq, rfl, hk, rfl, rfl, rfl, rfl, rfl⟩)

theorem exec_inv {i : Instr} {s t : State} (hs : s.Inv) (h : exec i s = .next t) : t.Inv := by
  rcases exec_next_cases h with ⟨u, c, hu, rfl⟩ | ⟨-, u, hu, rfl⟩
  · exact hu.inv_finish hs c
  · exact configureBody_inv_finish hu hs .ok

end Sys2Proof.Machine
end

section
/-! SUPPORT. The word of a command the decoder reads (30_encoding R90 to R94), and the host bus (10_state R34 to R40,
20_memory R62, R63): which address a legal access is at, the access of a register and of an entry, what a write may do
to the state, and that every host move and every step keep the invariant. -/

namespace Sys2Proof.Machine

/-! ### The decoder (30_encoding R90, R92) -/

/-- The opcode map is the inverse of the opcodes (R92). -/
theorem ofOpcode?_eq_some {op : BitVec 8} {i : Instr} (h : Instr.ofOpcode? op = some i) : op = i.opcode := by
  unfold Instr.ofOpcode? at h
  split at h <;> cases h <;> exact BitVec.eq_of_toNat_eq ‹_›

/-- A word is RSVD above OPCODE (R90). -/
theorem rsvdField_append_opcodeField (w : Word) : rsvdField w ++ opcodeField w = w := by
  apply BitVec.eq_of_getLsbD_eq
  intro i hi
  simp only [rsvdField, opcodeField, BitVec.getLsbD_append, BitVec.getLsbD_extractLsb']
  by_cases h : i < 8
  · simp [h]
  · simp [h, show i - 8 < 24 by omega, show 8 + (i - 8) = i by omega]

/-- A legal word is its command's (R94). -/
theorem decodeWord_eq_ok {w : Word} {i : Instr} (h : decodeWord w = .ok i) : w = encode i := by
  unfold decodeWord at h
  split at h
  case isTrue => cases h
  case isFalse hr =>
    split at h
    case h_2 => cases h
    case h_1 j ho =>
      cases h
      have := rsvdField_append_opcodeField w
      rw [not_not.1 hr, ofOpcode?_eq_some ho] at this
      exact this.symm

/-- The command a table row's bits decode to is that of the row's word (R61, R90). -/
theorem decodeTableWord_eq_some {nbits w : Nat} {i : Instr} (h : decodeTableWord nbits w = some i) :
    nbits ≤ 32 ∧ decodeWord (BitVec.ofNat 32 (w % 2 ^ nbits)) = .ok i := by
  unfold decodeTableWord tableWord? at h
  split at h
  case h_1 => cases h
  case h_2 v hv =>
    split at hv
    case isFalse => cases hv
    case isTrue hn =>
      cases hv
      refine ⟨hn, ?_⟩
      have hl : ∀ v : Word, (List.range 4).map (byteLane v) =
        [byteLane v 0, byteLane v 1, byteLane v 2, byteLane v 3] := fun _ => rfl
      rw [hl, decodeBytes, wordOfBytes_byteLane] at h
      generalize decodeWord _ = r at h ⊢
      cases r with
      | error e => cases h
      | ok j => cases h; rfl

/-! ### Addresses (10_state R34, R36, 20_memory R63) -/

theorem atOffset?_eq_some {a : Nat} {r : Reg} (h : Reg.atOffset? a = some r) : a = r.offset := by
  unfold Reg.atOffset? at h
  split at h <;> cases h <;> rfl

theorem locate_reg (r : Reg) : locate r.offset 4 = some (.reg r) := by cases r <;> rfl

theorem entryAt?_eq_some {a : Nat} {t : Target} (h : Buf.entryAt? a = some t) :
    ∃ b i, t = .entry b i ∧ b.base ≤ a ∧ a < b.base + 4 * b.depth ∧ i = (a - b.base) / 4 := by
  unfold Buf.entryAt? at h
  obtain ⟨b, hb, rfl⟩ := Option.map_eq_some_iff.1 h
  have := List.find?_some hb
  simp only [Bool.and_eq_true, decide_eq_true_eq] at this
  exact ⟨b, _, rfl, this.1, this.2, rfl⟩

/-- Everything a legal access is at: a register at its offset or an entry at its address, four bytes. -/
theorem locate_eq_some {a size : Nat} {t : Target} (h : locate a size = some t) :
    size = 4 ∧ ((∃ r, t = .reg r ∧ a = r.offset) ∨ (∃ b i, t = .entry b i ∧ i < b.depth ∧ a = b.base + 4 * i)) := by
  unfold locate at h
  split at h
  case isTrue => cases h
  case isFalse hl =>
    refine ⟨by omega, ?_⟩
    split at h
    case isTrue =>
      obtain ⟨r, hr, rfl⟩ := Option.map_eq_some_iff.1 h
      exact .inl ⟨r, rfl, atOffset?_eq_some hr⟩
    case isFalse =>
      obtain ⟨b, i, rfl, h1, h2, rfl⟩ := entryAt?_eq_some h
      have := Buf.base_mod_four b
      exact .inr ⟨b, _, rfl, by omega, by omega⟩

/-! ### Accesses -/

section
variable {s : State} (hr : s.rst = false)
include hr

theorem busRead_status : busRead s Reg.status.offset 4 = .ok (s.statusWord, s) := by
  simp [busRead, locate_reg, State.readTarget, hr, State.readReg]

theorem busWrite_status (v : Word) : busWrite s Reg.status.offset 4 v = .ok (s.writeStatus v) := by
  simp [busWrite, locate_reg, State.writeTarget, hr, State.writeReg]

variable (hb : s.busy = false)
include hb

theorem busRead_reg (r : Reg) : busRead s r.offset 4 = .ok (s.readReg r, s) := by
  simp [busRead, locate_reg, State.readTarget, hr, hb]

theorem busWrite_reg (r : Reg) (v : Word) : busWrite s r.offset 4 v = .ok (s.writeReg v r) := by
  simp [busWrite, locate_reg, State.writeTarget, hr, hb]

theorem busWrite_entry {b : Buf} {i : Nat} (hi : i < b.depth) (v : Word) :
    busWrite s (b.base + 4 * i) 4 v = .ok { s with mem := s.mem.setEntry b i v } := by
  simp [busWrite, locate_entry b hi, State.writeTarget, hr, hb]

theorem busRead_written {b : Buf} {i : Nat} (hi : i < b.depth) {w : Word} (hw : s.mem.entry? b i = some w) :
    busRead s (b.base + 4 * i) 4 = .ok (w, s) := by
  simp [busRead, locate_entry b hi, State.readTarget, hr, hb, hw]

end

/-- A write while BUSY to any address but STATUS is dropped (R66). -/
theorem writeTarget_of_busy {s : State} (hr : s.rst = false) (hb : s.busy = true) {t : Target}
    (ht : t ≠ .reg .status) (v : Word) : s.writeTarget t v = s.dropWrite := by
  simp [State.writeTarget, hr, hb, ht]

/-- W1C of DONE and OVR, each by its own bit (R23). -/
theorem State.writeStatus_eq (s : State) (v : Word) :
    s.writeStatus v = { s with done := s.done && !v.getLsbD 1, ovr := s.ovr && !v.getLsbD 3 } := by
  unfold State.writeStatus State.clearDone
  cases v.getLsbD 1 <;> cases v.getLsbD 3 <;> simp

/-- Everything a host write that goes on can do (R62, R66, R281). -/
theorem busWrite_next_cases {s t : State} {a size : Nat} {v : Word} (h : busWrite s a size v = .ok t) :
    size = 4 ∧ ((s.rst = true ∧ t = s) ∨
    (s.rst = false ∧ s.busy = true ∧ a ≠ Reg.status.offset ∧ t = s.dropWrite) ∨
    (s.rst = false ∧ a = Reg.status.offset ∧ t = s.writeStatus v) ∨
    (s.rst = false ∧ s.busy = false ∧ ∃ r, r ≠ .status ∧ a = r.offset ∧ t = s.writeReg v r) ∨
    (s.rst = false ∧ s.busy = false ∧ ∃ b i, i < b.depth ∧ t = { s with mem := s.mem.setEntry b i v })) := by
  obtain ⟨tg, hl, rfl⟩ := busWrite_cases h
  obtain ⟨rfl, htg⟩ := locate_eq_some hl
  refine ⟨rfl, ?_⟩
  cases hr : s.rst with
  | true => exact .inl ⟨rfl, by simp [State.writeTarget, hr]⟩
  | false =>
    by_cases hs : tg = .reg .status
    · subst hs
      refine .inr (.inr (.inl ⟨rfl, ?_, by simp [State.writeTarget, hr, State.writeReg]⟩))
      rcases htg with ⟨r, hr, ha⟩ | ⟨b, i, hb, -⟩
      · cases hr; exact ha
      · cases hb
    · cases hb : s.busy with
      | true =>
        refine .inr (.inl ⟨rfl, rfl, fun ha => hs ?_, writeTarget_of_busy hr hb hs v⟩)
        rw [ha, locate_reg] at hl
        exact (Option.some.inj hl).symm
      | false =>
        rcases htg with ⟨r, rfl, ha⟩ | ⟨b, i, rfl, hi, ha⟩
        · exact .inr (.inr (.inr (.inl ⟨rfl, rfl, r, fun e => hs (e ▸ rfl), ha, by
            simp [State.writeTarget, hr, hb]⟩)))
        · exact .inr (.inr (.inr (.inr ⟨rfl, rfl, b, i, hi, by simp [State.writeTarget, hr, hb]⟩)))

/-- The engine's own state, without the host's moves and the model's counters: what a read and a wait keep. -/
def State.engine (s : State) : State := { s with host := [], reads := [], wait := 0, free := 0 }

/-- Everything a host move that goes on can do to the engine: a write, RST, or nothing. -/
theorem hostMove_engine {s t : State} {op : HostOp} (h : hostMove s op = .next t) :
    (∃ a size v, op = .write a size v ∧ busWrite s a size v = .ok t) ∨
    (∃ b, op = .rst b ∧ t = s.setRst b) ∨ t.engine = s.engine := by
  rcases hostMove_cases h with hw | ⟨a, size, use, v, u, -, hu, rfl⟩ | ⟨a, mask, val, v, u, -, hu, ht⟩ | ⟨-, rfl⟩ |
    hrst
  · exact .inl hw
  · refine .inr (.inr ?_)
    rcases busRead_state hu with rfl | rfl <;> rfl
  · refine .inr (.inr ?_)
    rcases busRead_state hu with rfl | rfl <;> rcases ht with rfl | rfl <;> rfl
  · refine .inr (.inr ?_)
    split <;> rfl
  · exact .inr (.inl hrst)

/-! ### The invariant over a host move -/

theorem State.Inv.writeStatus {s : State} (hs : s.Inv) (v : Word) : (s.writeStatus v).Inv := by
  obtain ⟨hp, hc, hst, hm, hl⟩ := hs
  rw [s.writeStatus_eq v]
  refine ⟨hp, hc, ?_, hm, hl⟩
  simp only [State.statusInv] at hst ⊢
  cases hd : s.done <;> simp_all

theorem State.Inv.writeReg {s : State} (hs : s.Inv) (hr : s.rst = false) (v : Word) (r : Reg) :
    (s.writeReg v r).Inv := by
  cases r with
  | status => exact hs.writeStatus v
  | cmd =>
    obtain ⟨hp, hc, -, hm, hl⟩ := hs
    exact ⟨hp, hc, by simp [State.statusInv, State.writeReg, hr], hm, hl⟩
  | _ => exact hs

theorem State.Inv.setEntry {s : State} (hs : s.Inv) {b : Buf} {i : Nat} (hi : i < b.depth) (v : Word) :
    ({ s with mem := s.mem.setEntry b i v } : State).Inv := by
  obtain ⟨hp, hc, hst, hm, hl⟩ := hs
  exact ⟨hp, hc, hst, (State.memInv_iff _).2 ((s.memInv_iff.1 hm).setEntry hi v), hl⟩

theorem busWrite_inv {s t : State} {a size : Nat} {v : Word} (hs : s.Inv) (h : busWrite s a size v = .ok t) :
    t.Inv := by
  obtain ⟨-, hw⟩ := busWrite_next_cases h
  rcases hw with ⟨-, rfl⟩ | ⟨-, -, -, rfl⟩ | ⟨-, -, rfl⟩ | ⟨hr, -, r, -, -, rfl⟩ | ⟨-, -, b, i, hi, rfl⟩
  · exact hs
  · exact hs
  · exact hs.writeStatus v
  · exact hs.writeReg hr v r
  · exact hs.setEntry hi v

/-- The reset state meets the invariant under any well-formed parameters (R280). -/
theorem State.Inv.toReset {s : State} (hs : s.Inv) : s.toReset.Inv :=
  ⟨hs.1, rfl, rfl, rfl, rfl⟩

theorem State.Inv.setRst {s : State} (hs : s.Inv) (b : Bool) : (s.setRst b).Inv := by
  unfold State.setRst
  split
  · exact hs.toReset
  · split
    · exact hs.toReset
    · exact hs

/-- The invariant speaks of the engine alone. -/
theorem State.Inv.of_engine {s t : State} (h : t.engine = s.engine) (hs : s.Inv) : t.Inv := by
  have : t.engine.Inv = s.engine.Inv := congrArg (fun u : State => u.Inv) h
  exact this.mpr hs

theorem hostMove_inv {s t : State} {op : HostOp} (hs : s.Inv) (h : hostMove s op = .next t) : t.Inv := by
  rcases hostMove_engine h with ⟨a, size, v, -, hw⟩ | ⟨b, -, rfl⟩ | he
  · exact busWrite_inv hs hw
  · exact hs.setRst b
  · exact hs.of_engine he

/-- A step runs one command, completes an illegal word, or makes at most one host move; each keeps the invariant. -/
theorem step_inv {s t : State} (hs : s.Inv) (h : step s = .next t) : t.Inv := by
  rcases step_cases h with ⟨-, i, -, hx⟩ | ⟨-, -, rfl⟩ | ⟨-, -, rfl⟩ | ⟨-, op, rest, -, hm⟩
  · exact exec_inv hs hx
  · exact hs.finish _
  · exact hs
  · exact hostMove_inv (s := { s with host := rest, wait := s.wait - 1 }) hs hm

end Sys2Proof.Machine
end

section
/-! SUPPORT. STATUS bit by bit (10_state R23), what a completed command leaves of the flags, and the fields of an entry
(R37 to R39). -/

namespace Sys2Proof.Machine

/-! ### What a command that goes on leaves (10_state R24) -/

theorem exec_next_status {i : Instr} {s t : State} (h : exec i s = .next t) : t.busy = false ∧ t.done = true := by
  rcases exec_next_cases h with ⟨u, c, -, rfl⟩ | ⟨-, u, -, rfl⟩ <;> exact ⟨rfl, rfl⟩

theorem exec_next_hostSide {i : Instr} {s t : State} (h : exec i s = .next t) : t.hostSide = s.hostSide := by
  rcases exec_next_cases h with ⟨u, c, hu, rfl⟩ | ⟨-, u, hu, rfl⟩
  · exact State.hostSide_of_kept hu.kept
  · obtain ⟨-, -, rfl⟩ := configureBody_eq_ok hu
    rfl

/-- CONFIGURED changes only by a CONFIGURE that completes with OK, which sets it (R44). -/
theorem exec_next_configured_cases {i : Instr} {s t : State} (h : exec i s = .next t) :
    t.configured = s.configured ∨ (i = .configure ∧ t.configured = true ∧ t.code = .ok) := by
  rcases exec_next_cases h with ⟨u, c, hu, rfl⟩ | ⟨hi, u, hu, rfl⟩
  · have : u.kept.configured = s.kept.configured := congrArg State.configured hu.kept
    exact .inl this
  · obtain ⟨-, -, rfl⟩ := configureBody_eq_ok hu
    exact .inr ⟨hi, rfl, rfl⟩

/-! ### STATUS and CTRL (10_state R22, R23) -/

/-- A flag at bit `k` has that bit alone. -/
theorem getLsbD_flagAt (b : Bool) {k i : Nat} (hk : k < 32) : (flagAt b k).getLsbD i = (decide (i = k) && b) := by
  simp only [flagAt, BitVec.getLsbD_shiftLeft, BitVec.getLsbD_setWidth, BitVec.getLsbD_ofBool]
  grind

/-- The bits of STATUS: a flag each in bits 4:0, CODE in bits 15:8, 0 elsewhere. -/
theorem getLsbD_statusWord (s : State) (i : Nat) :
    s.statusWord.getLsbD i =
      (decide (i = 0) && s.busy || decide (i = 1) && s.done || decide (i = 2) && s.configured ||
        decide (i = 3) && s.ovr || decide (i = 4) && s.irq || decide (8 ≤ i) && s.code.byte.getLsbD (i - 8)) := by
  simp only [State.statusWord, BitVec.getLsbD_or, getLsbD_flagAt _ (show 0 < 32 by decide),
    getLsbD_flagAt _ (show 1 < 32 by decide), getLsbD_flagAt _ (show 2 < 32 by decide),
    getLsbD_flagAt _ (show 3 < 32 by decide), getLsbD_flagAt _ (show 4 < 32 by decide), BitVec.getLsbD_shiftLeft,
    BitVec.getLsbD_setWidth]
  rcases lt_or_ge i 16 with hi | hi
  · simp [show i < 32 by omega, show i - 8 < 32 by omega, ← decide_not]
  · simp [BitVec.getLsbD_of_ge _ _ (show 8 ≤ i - 8 by omega)]

/-- Above the flags and the reserved bits 7:5 stands CODE. -/
theorem getLsbD_statusWord_of_ge (s : State) {i : Nat} (hi : 8 ≤ i) :
    s.statusWord.getLsbD i = s.code.byte.getLsbD (i - 8) := by
  rw [getLsbD_statusWord]
  simp [hi, show i ≠ 0 by omega, show i ≠ 1 by omega, show i ≠ 2 by omega, show i ≠ 3 by omega, show i ≠ 4 by omega]

/-- CTRL stores bit 0 only (R22). -/
theorem writeCtrl_ctrlWord (s : State) (v : Word) : (s.writeCtrl v).ctrlWord = v &&& 1 := by
  apply BitVec.eq_of_getLsbD_eq
  intro i hi
  simp only [State.ctrlWord, State.writeCtrl, getLsbD_flagAt _ (show 0 < 32 by decide), BitVec.getLsbD_and]
  by_cases h : i = 0 <;> simp [h]

theorem State.ctrlWord_eq (s : State) : s.ctrlWord = if s.ie then 1 else 0 := by
  cases h : s.ie <;> simp [State.ctrlWord, h, flagAt]

/-! ### The fields of an entry (10_state R37 to R39) -/

theorem Buf.mask_eq (b : Buf) : b.mask = if b = .inp then 0x8000FFFF else 0x0000FFFF := by cases b <;> rfl

/-- SYM is in every entry's defined bits. -/
theorem symField_and_mask (v : Word) (b : Buf) : symField (v &&& b.mask) = (v.extractLsb' 0 16).toNat := by
  have hm : b.mask.extractLsb' 0 16 = BitVec.allOnes 16 := by cases b <;> rfl
  rw [symField, BitVec.extractLsb'_and, hm, BitVec.and_allOnes]

/-- ERASED is in the defined bits of IN. -/
theorem erasedField_and_mask (v : Word) : erasedField (v &&& Buf.inp.mask) = v.getLsbD 31 := by
  simp [erasedField, Buf.mask]

/-- What an engine write of a 16-bit value leaves in an entry (R38, R39). -/
theorem symWord_and_mask {v : Nat} (hv : v < 65536) (b : Buf) : symWord v &&& b.mask = BitVec.ofNat 32 v := by
  apply BitVec.eq_of_getLsbD_eq
  intro i hi
  simp only [symWord, BitVec.getLsbD_and, BitVec.getLsbD_setWidth, BitVec.getLsbD_ofNat]
  rcases lt_or_ge i 16 with h | h
  · have hm : b.mask.getLsbD i = true := by
      have hl : ∀ i < 16, b.mask.getLsbD i = true := by cases b <;> decide
      exact hl i h
    simp [hm, h]
  · have hz : v.testBit i = false :=
      Nat.testBit_lt_two_pow (hv.trans_le (Nat.pow_le_pow_right (n := 2) (by decide) h))
    simp [hz]

end Sys2Proof.Machine
end

section
/-! SUPPORT. The plain read-write registers (10_state R34), and what one step does to STATUS's flags (R44). -/

namespace Sys2Proof.Machine

/-! ### Registers that a host write stores whole -/

/-- The read-write registers other than CTRL, STATUS and CMD. -/
def plainRegs : List Reg :=
  [.cfgN, .cfgK, .opA, .opB, .lenIn, .lenWork, .lenSyn, .lenFsyn, .lenLoc, .numEra, .numErrpos, .lenA, .lenB]

/-- A write to a plain register is that register's value afterwards, and no other register or byte of memory
changes. -/
theorem writeReg_plain (s : State) (v : Word) {r : Reg} (hr : r ∈ plainRegs) :
    (s.writeReg v r).rst = s.rst ∧ (s.writeReg v r).busy = s.busy ∧ (s.writeReg v r).mem = s.mem ∧
    ∀ r', (s.writeReg v r).readReg r' = if r' = r then v else s.readReg r' := by
  fin_cases hr <;> exact ⟨rfl, rfl, rfl, fun r' => by cases r' <;> rfl⟩

/-! ### The flags (10_state R44) -/

/-- BUSY, DONE, CONFIGURED, OVR and CODE. -/
def State.flags (s : State) : Bool × Bool × Bool × Bool × StatusCode := (s.busy, s.done, s.configured, s.ovr, s.code)

/-- A register write while IDLE changes a flag at STATUS and CMD only. -/
theorem writeReg_flags (s : State) (v : Word) {r : Reg} (hs : r ≠ .status) (hc : r ≠ .cmd) :
    (s.writeReg v r).flags = s.flags := by
  cases r with
  | status => exact absurd rfl hs
  | cmd => exact absurd rfl hc
  | _ => rfl

/-- The flags after the engine's turn: a completion, and CONFIGURED set by a successful CONFIGURE only. -/
theorem runPending_flags {s t : State} (h : runPending s = .next t) :
    t.flags = (false, true, s.configured, s.ovr, t.code) ∨
    (s.pending = encode .configure ∧ t.flags = (false, true, true, s.ovr, .ok)) := by
  cases hd : decodeWord s.pending with
  | error e =>
    rw [runPending_of_illegal hd] at h
    cases h
    exact .inl rfl
  | ok i =>
    rw [runPending_of_decode hd] at h
    obtain ⟨hb, hdone⟩ := exec_next_status h
    have ho : t.ovr = s.ovr :=
      show t.hostSide.ovr = s.hostSide.ovr from congrArg State.ovr (exec_next_hostSide h)
    rcases exec_next_configured_cases h with hc | ⟨rfl, hc, hcode⟩
    · exact .inl (by simp only [State.flags, hb, hdone, hc, ho])
    · exact .inr ⟨decodeWord_eq_ok hd, by simp only [State.flags, hb, hdone, hc, ho, hcode]⟩

/-- The flags after a host move that is no RST move: only a write changes them, at CMD while IDLE, at STATUS, or at any
other address while BUSY. -/
theorem hostMove_flags {s t : State} {op : HostOp} (h : hostMove s op = .next t) (hrst : ∀ b, op ≠ .rst b) :
    t.flags = s.flags ∨
    (∃ w, op = .write 0x00C 4 w ∧ s.busy = false ∧ t.flags = (true, false, s.configured, s.ovr, .ok)) ∨
    (∃ w, op = .write 0x008 4 w ∧
      t.flags = (s.busy, s.done && !w.getLsbD 1, s.configured, s.ovr && !w.getLsbD 3, s.code)) ∨
    (∃ a v, op = .write a 4 v ∧ a ≠ 0x008 ∧ s.busy = true ∧
      t.flags = (s.busy, s.done, s.configured, true, s.code)) := by
  rcases hostMove_engine h with ⟨a, size, v, rfl, hw⟩ | ⟨b, rfl, -⟩ | he
  · obtain ⟨rfl, hcases⟩ := busWrite_next_cases hw
    rcases hcases with ⟨-, rfl⟩ | ⟨-, hb, ha, rfl⟩ | ⟨-, rfl, rfl⟩ | ⟨-, hb, r, hr, rfl, rfl⟩ | ⟨-, -, b, i, -, rfl⟩
    · exact .inl rfl
    · exact .inr (.inr (.inr ⟨a, v, rfl, ha, hb, rfl⟩))
    · exact .inr (.inr (.inl ⟨v, rfl, by rw [s.writeStatus_eq v]; rfl⟩))
    · by_cases hc : r = .cmd
      · subst hc; exact .inr (.inl ⟨v, rfl, hb, rfl⟩)
      · exact .inl (writeReg_flags s v hr hc)
    · exact .inl rfl
  · exact absurd rfl (hrst b)
  · have : t.engine.flags = s.engine.flags := congrArg State.flags he
    exact .inl this

/-! ### Whose turn it is (70_reset_and_hazards R290) -/

theorem State.engineTurn_eq_true_iff (s : State) :
    s.engineTurn = true ↔ s.rst = false ∧ s.busy = true ∧ (s.wait = 0 ∨ s.host = []) := by
  simp [State.engineTurn, and_assoc]

theorem engineTurn_eq_false {s : State} (h : s.rst = true ∨ s.busy = false ∨ (s.wait ≠ 0 ∧ s.host ≠ [])) :
    s.engineTurn = false := by
  rw [← Bool.not_eq_true, s.engineTurn_eq_true_iff]
  rintro ⟨hr, hb, hw⟩
  simp_all

/-- A bus read records nothing and takes no host move; the move around it does. -/
theorem busRead_reads_host {s t : State} {a size : Nat} {v : Word} (h : busRead s a size = .ok (v, t)) :
    t.reads = s.reads ∧ t.host = s.host := by
  rcases busRead_state h with rfl | rfl <;> exact ⟨rfl, rfl⟩

end Sys2Proof.Machine
end

section
/-! PROOFS. The statements of 10_state. -/

namespace Sys2Proof.Machine

/-- Settles O56: a command's pseudocode writes within the buffers and registers that the configuration bounds, and a
host move writes an entry's defined bits or a register. -/
theorem stepKeepsInvariant : Obligations.StepKeepsInvariant := fun _ _ hs h => step_inv hs h

/-- Settles O39: every command ends in `finish`, on pseudocode that writes no field of the host's side. -/
theorem completionReport : Obligations.CompletionReport := by
  intro i s t h
  obtain ⟨hbusy, hdone⟩ := exec_next_status h
  have hk := exec_next_hostSide h
  have key {α : Type} (f : State → α) : f t.hostSide = f s.hostSide := congrArg f hk
  have hie : t.ie = s.ie := key State.ie
  refine ⟨hbusy, hdone, by rw [State.irq, hdone, hie, Bool.true_and], fun hi => ?_, key State.ovr, hie,
    key State.pending, key State.opA, key State.opB, key State.cfgN, key State.cfgK, key State.lenIn, key State.lenA,
    key State.lenB, key State.params, key State.rst, key State.host, key State.reads, key State.wait, key State.free⟩
  exact (exec_next_configured_cases h).resolve_right fun ⟨hc, _⟩ => hi hc

/-- Settles O47: CMD is at 0x00C, and `latch` is the write's whole effect while IDLE. -/
theorem cmdWriteIssuesOrDrops : Obligations.CmdWriteIssuesOrDrops := fun s w hr =>
  ⟨fun hb => by
      rw [busWrite, show locate 0x00C 4 = some (.reg .cmd) from rfl]
      exact congrArg Except.ok (writeTarget_of_busy hr hb (by decide) w),
    fun hb => ⟨s.issue w, busWrite_reg hr hb .cmd w, rfl⟩, fun hb => busRead_reg hr hb .cmd⟩

/-- Settles O48: STATUS is at 0x008, and neither its read nor its write asks whether the engine is BUSY. -/
theorem statusFieldsAndWriteOneToClear : Obligations.StatusFieldsAndWriteOneToClear := by
  refine ⟨fun s hr => ⟨⟨s.statusWord, busRead_status hr, ?_⟩, fun v => ?_⟩,
    rfl, rfl, rfl, rfl, rfl, rfl, rfl, rfl, rfl, rfl, rfl, rfl⟩
  · have bit := getLsbD_statusWord s
    refine ⟨(bit 0).trans (by simp), (bit 1).trans (by simp), (bit 2).trans (by simp), (bit 3).trans (by simp),
      (bit 4).trans (by simp [State.irq]), ?_, ?_, ?_⟩
    all_goals
      refine BitVec.eq_of_getLsbD_eq fun i hi => ?_
      rw [BitVec.getLsbD_extractLsb']
    · rw [bit]; interval_cases i <;> simp
    · rw [getLsbD_statusWord_of_ge s (by omega)]; simp [hi]
    · rw [getLsbD_statusWord_of_ge s (by omega), BitVec.getLsbD_of_ge _ _ (by omega)]; simp
  · rw [← s.writeStatus_eq v]; exact busWrite_status hr v

/-- Settles O52: entry i of a buffer is at base + 4*i on the bus and in the engine's reads, and entries do not
overlap. -/
theorem entryWriteThenRead : Obligations.EntryWriteThenRead := by
  refine ⟨fun s b i v hr hb hi => ?_, fun m b vs hl => ⟨fun j hj hv => ?_, fun c j hcj hj => ?_⟩, fun b => ?_⟩
  · have he := s.mem.entry?_setEntry_same b i v
    dsimp only
    rw [← Buf.mask_eq b]
    refine ⟨_, busWrite_entry hr hb hi v, rfl,
      busRead_written (s := { s with mem := s.mem.setEntry b i v }) hr hb hi he, he, ?_, ?_, ?_, ?_⟩
    · rw [State.symAt, he]; exact symField_and_mask v b
    · rintro rfl; rw [State.erasedAt, he]; exact erasedField_and_mask v
    · exact fun c j hcj hj => s.mem.entry?_setEntry_other v (entryAddr_apart hi hj hcj)
    · exact fun x hx => s.mem.read?_setEntry_other b i v hx
  · rw [m.entry?_store_same b vs hj, symWord_and_mask hv]
  · exact m.entry?_store_other vs (entryAddr_apart_store hl hj hcj)
  · cases b <;> exact ⟨rfl, rfl⟩

/-- Settles O53: a register is read and written at its own offset, and a plain one is stored whole. -/
theorem registerWriteThenRead : Obligations.RegisterWriteThenRead := by
  intro s v hr hb
  have read := busRead_reg hr hb
  have write := fun r => busWrite_reg hr hb r v
  refine ⟨fun r hmem => ?_, ⟨_, write .ctrl, rfl, ?_⟩, fun r hmem => ?_, read, ?_, ?_⟩
  · obtain ⟨hrst, hbusy, hm, hregs⟩ := writeReg_plain s v hmem
    refine ⟨_, write r, ?_, fun r' hr' => by rw [hregs, if_neg hr'], hm⟩
    rw [busRead_reg (hrst.trans hr) (hbusy.trans hb), hregs, if_pos rfl]
  · rw [← writeCtrl_ctrlWord s v]
    exact busRead_reg (s := s.writeCtrl v) hr hb .ctrl
  · rw [write]
    fin_cases hmem <;> rfl
  · exact ⟨read .id, s.ctrlWord_eq ▸ read .ctrl, read .status, read .cmd, read .cfgN, read .cfgK, read .actN,
      read .actK, read .q, read .m, read .nsym, read .prim, read .opA, read .opB, read .result, read .lenIn,
      read .lenOut, read .lenWork, read .lenSyn, read .lenFsyn, read .lenLoc, read .numEra, read .numErrpos,
      read .lenGen, read .lenA, read .lenB, read .lenR⟩
  · exact ⟨write .cfgN, write .cfgK, write .opA, write .opB, write .lenIn, write .lenWork, write .lenSyn,
      write .lenFsyn, write .lenLoc, write .numEra, write .numErrpos, write .lenA, write .lenB⟩

/-- Settles O58: the flags after the engine's turn, and after each host move. -/
theorem flagDiscipline : Obligations.FlagDiscipline := by
  intro s t h hrst
  cases he : s.engineTurn with
  | true =>
    have hb := (s.engineTurn_eq_true_iff.1 he).2.1
    rw [step_of_engineTurn he] at h
    rcases runPending_flags h with hf | ⟨hp, hf⟩ <;> simp_all [State.flags]
  | false =>
    rcases step_cases h with ⟨ht, -⟩ | ⟨ht, -⟩ | ⟨-, -, rfl⟩ | ⟨-, op, rest, hh, hm⟩
    · simp [he] at ht
    · simp [he] at ht
    · simp_all
    · have hop : ∀ b, op ≠ .rst b := fun b hb => hrst.elim (by simp [he]) fun hr => hr b rest (hb ▸ hh)
      rcases hostMove_flags hm hop with hf | ⟨w, rfl, hb, hf⟩ | ⟨w, rfl, hf⟩ | ⟨a, v, rfl, ha, hb, hf⟩ <;>
        simp_all [State.flags]

/-- Settles O3: at the engine's turn a step is `runPending`, else `hostTurn`, one host move at a time. -/
theorem stepRunsLatchedCommand : Obligations.StepRunsLatchedCommand := by
  refine ⟨fun s i hr hb hw hd _ => ?_, fun s nbits w i h => ?_, fun s hturn => ?_⟩
  · rw [step_of_engineTurn (s.engineTurn_eq_true_iff.2 ⟨hr, hb, hw⟩), runPending_of_decode hd]
  · obtain ⟨hn, hd⟩ := decodeTableWord_eq_some h
    rw [step_of_engineTurn (withFetchWord_engineTurn s hn), runPending_of_decode]
    rw [withFetchWord_pending s hn, hd]
  · have hstep := step_of_hostTurn (engineTurn_eq_false hturn)
    refine ⟨hstep, fun hh => by rw [hstep, hostTurn, hh], fun op rest hh => ?_⟩
    have hmove : step s = hostMove { s with host := rest, wait := s.wait - 1 } op := by rw [hstep, hostTurn, hh]
    rw [hmove]
    refine ⟨?_, ?_, ?_, ?_, ?_, ?_⟩
    · rintro a size v rfl
      exact ⟨fun t ht => by simp only [hostMove, ht], fun f hf => by simp only [hostMove, hf]⟩
    · rintro a size use rfl
      refine ⟨fun v t ht => ?_, fun f hf => by simp only [hostMove, hf]⟩
      simp only [hostMove, ht, State.record, (busRead_reads_host ht).1]
    · rintro a mask val rfl
      refine ⟨fun v t ht => ?_, fun f hf => by simp only [hostMove, hf]⟩
      obtain ⟨hreads, hhost⟩ := busRead_reads_host ht
      simp only [hostMove, ht, State.record, hreads, hhost]
      split <;> rfl
    · rintro rfl; rfl
    · rintro rfl; rfl
    · rintro rfl; simp [hostMove, State.setRst, State.toReset]

end Sys2Proof.Machine
end

section
/-! SUPPORT. Which addresses a legal access has (20_memory R60, R63), and what a read returns, rule by rule (R62, R66,
R40). -/

namespace Sys2Proof.Machine

/-! ### Legal accesses (20_memory R63) -/

/-- The registers stand at the multiples of 4 below 0x6C, with no gap (R34). -/
theorem isSome_atOffset? {a : Nat} (h4 : a % 4 = 0) (ha : a < 0x6C) : (Reg.atOffset? a).isSome = true := by
  have hall : ∀ k < 27, (Reg.atOffset? (4 * k)).isSome = true := by decide
  have hk := hall (a / 4) (by omega)
  rwa [show 4 * (a / 4) = a by omega] at hk

/-- Each buffer begins where the one before it ends, so that they cover 0x40000 to 0x37FFFF (R36, R60). -/
theorem Buf.exists_covers {a : Nat} (hlo : 0x040000 ≤ a) (hhi : a < 0x380000) :
    ∃ b : Buf, b.base ≤ a ∧ a < b.base + 4 * b.depth := by
  by_contra! next
  have hend : 0x380000 ≤ a :=
    next .pr <| next .pb <| next .pa <| next .gen <| next .errpos <| next .era <| next .loc <| next .fsyn <|
      next .syn <| next .work <| next .out <| next .inp hlo
  omega

/-- A legal access is of four bytes at a multiple of 4, in the registers or in the buffers (R63). -/
theorem isSome_locate_iff (a size : Nat) :
    (locate a size).isSome = true ↔
      size = 4 ∧ a % 4 = 0 ∧ (a < 0x00006C ∨ 0x040000 ≤ a ∧ a < 0x380000) := by
  constructor
  · intro h
    obtain ⟨tg, hl⟩ := Option.isSome_iff_exists.1 h
    obtain ⟨rfl, ⟨r, -, rfl⟩ | ⟨b, i, -, hi, rfl⟩⟩ := locate_eq_some hl
    · have hr : r.offset % 4 = 0 ∧ r.offset < 0x6C := by cases r <;> decide
      omega
    · have hb : b.base % 4 = 0 ∧ 0x040000 ≤ b.base ∧ b.base + 4 * b.depth ≤ 0x380000 := by cases b <;> decide
      omega
  · rintro ⟨rfl, h4, ha | ⟨hlo, hhi⟩⟩
    · rw [locate, if_neg (by omega), if_pos (by omega), Option.isSome_map]
      exact isSome_atOffset? h4 ha
    · obtain ⟨b, hb1, hb2⟩ := Buf.exists_covers hlo hhi
      have hb4 := Buf.base_mod_four b
      rw [show a = b.base + 4 * ((a - b.base) / 4) by omega, locate_entry b (by omega)]
      rfl

theorem locate_eq_reg {a size : Nat} {r : Reg} (h : locate a size = some (.reg r)) : a = r.offset := by
  obtain ⟨-, ⟨r', e, ha⟩ | ⟨b, i, e, -⟩⟩ := locate_eq_some h
  · cases e; exact ha
  · cases e

theorem locate_eq_entry {a size : Nat} {b : Buf} {i : Nat} (h : locate a size = some (.entry b i)) :
    i < b.depth ∧ a = b.base + 4 * i := by
  obtain ⟨-, ⟨r, e, -⟩ | ⟨b', i', e, hi, ha⟩⟩ := locate_eq_some h
  · cases e
  · cases e; exact ⟨hi, ha⟩

theorem busRead_of_locate {a size : Nat} {tg : Target} (h : locate a size = some tg) (s : State) :
    busRead s a size = .ok (s.readTarget tg) := by rw [busRead, h]

theorem busWrite_of_locate {a size : Nat} {tg : Target} (h : locate a size = some tg) (s : State) (v : Word) :
    busWrite s a size v = .ok (s.writeTarget tg v) := by rw [busWrite, h]

theorem busRead_of_locate_none {a size : Nat} (h : locate a size = none) (s : State) :
    busRead s a size = .error (.hostBusError a) := by rw [busRead, h]

theorem busWrite_of_locate_none {a size : Nat} (h : locate a size = none) (s : State) (v : Word) :
    busWrite s a size v = .error (.hostBusError a) := by rw [busWrite, h]

/-! ### Accesses while BUSY, and of an unwritten entry (20_memory R66, 10_state R40) -/

/-- DONE is 0 while BUSY (R23, R66). -/
theorem State.done_of_busy {s : State} (hs : s.statusInv = true) (hb : s.busy = true) : s.done = false := by
  simp only [State.statusInv, hb, Bool.not_true, Bool.false_or, Bool.and_eq_true, Bool.not_eq_true'] at hs
  exact hs.1.1

/-- ID reads as its value, BUSY or not (R66). -/
theorem busRead_id {s : State} (hr : s.rst = false) : busRead s Reg.id.offset 4 = .ok (0x52530007, s) := by
  simp [busRead, locate_reg, State.readTarget, hr, State.readReg]

/-- A draw that no mask cuts is the whole free word. -/
theorem State.draw_allOnes (s : State) :
    s.draw (BitVec.allOnes 32) = (Config.freeWord s.free, { s with free := s.free + 1 }) := by
  rw [State.draw, BitVec.and_allOnes]

/-- A read while BUSY of anything but ID and STATUS is a draw (R66). -/
theorem readTarget_of_busy {s : State} (hr : s.rst = false) (hb : s.busy = true) {tg : Target}
    (hid : tg ≠ .reg .id) (hst : tg ≠ .reg .status) :
    s.readTarget tg = s.draw (BitVec.allOnes 32) := by
  simp [State.readTarget, hr, hb, hid, hst]

/-- A read while IDLE of an unwritten entry is a draw with the entry's reserved bits 0 (R40, U2). -/
theorem busRead_unwritten {s : State} (hr : s.rst = false) (hb : s.busy = false) {b : Buf} {i : Nat}
    (hi : i < b.depth) (hw : s.mem.entry? b i = none) :
    busRead s (b.base + 4 * i) 4 = .ok (s.draw b.mask) := by
  simp [busRead, locate_entry b hi, State.readTarget, hr, hb, hw]

/-- A read while IDLE of a register or of a written entry advances no counter, whatever it returns (R65). -/
theorem busRead_idle_state {s t : State} {a : Nat} {v : Word} (hr : s.rst = false) (hb : s.busy = false)
    (ha : (∃ r, locate a 4 = some (.reg r)) ∨
      ∃ b i, locate a 4 = some (.entry b i) ∧ (s.mem.entry? b i).isSome = true)
    (h : busRead s a 4 = .ok (v, t)) : t = s := by
  rcases ha with ⟨r, hl⟩ | ⟨b, i, hl, hw⟩
  · rw [locate_eq_reg hl, busRead_reg hr hb r] at h
    cases h; rfl
  · obtain ⟨hi, rfl⟩ := locate_eq_entry hl
    obtain ⟨w, hw⟩ := Option.isSome_iff_exists.1 hw
    rw [busRead_written hr hb hi hw] at h
    cases h; rfl

end Sys2Proof.Machine
end

section
/-! PROOFS. The statements of 20_memory. -/

namespace Sys2Proof.Machine

/-- Settles O49: a legal address other than those of ID and STATUS is at neither register, and BUSY decides the
rest. -/
theorem busyAccess : Obligations.BusyAccess := by
  intro s hr hb
  have not_at {a : Nat} {tg : Target} (hl : locate a 4 = some tg) {r : Reg} (ha : a ≠ r.offset) : tg ≠ .reg r := by
    rintro rfl
    exact ha (locate_eq_reg hl)
  refine ⟨fun a v hl ha => ?_, fun v hst => ?_, busRead_id hr, busRead_status hr, fun a hl hid hst => ?_⟩
  · obtain ⟨tg, hl⟩ := Option.isSome_iff_exists.1 hl
    rw [busWrite_of_locate hl, writeTarget_of_busy hr hb (not_at hl (r := .status) ha) v, State.dropWrite]
  · have hd := State.done_of_busy hst hb
    refine ⟨hd, (busWrite_status hr v).trans ?_⟩
    rw [s.writeStatus_eq v, hd, Bool.false_and, ← hd]
  · obtain ⟨tg, hl⟩ := Option.isSome_iff_exists.1 hl
    rw [busRead_of_locate hl, readTarget_of_busy hr hb (not_at hl (r := .id) hid) (not_at hl (r := .status) hst),
      State.draw_allOnes]

/-- Settles O50: the bus rules name exactly the accesses at which `locate` finds nothing. -/
theorem busErrorsExactly : Obligations.BusErrorsExactly := by
  intro s a size v
  have hlegal := isSome_locate_iff a size
  constructor
  · intro hbad
    have hl : locate a size = none := by
      rw [← Option.not_isSome_iff_eq_none, hlegal]
      omega
    exact ⟨busRead_of_locate_none hl s, busWrite_of_locate_none hl s v⟩
  · intro hsize h4 ha
    obtain ⟨tg, hl⟩ := Option.isSome_iff_exists.1 (hlegal.2 ⟨hsize, h4, ha⟩)
    exact ⟨⟨_, busRead_of_locate hl s⟩, _, busWrite_of_locate hl s v⟩

/-- Settles O51: a read advances the free-value counter or nothing, and while IDLE only an unwritten entry makes it
advance. -/
theorem readsHaveNoSideEffects : Obligations.ReadsHaveNoSideEffects := by
  refine ⟨fun s t a v h => ⟨?_, fun hr hb ha => ?_⟩, fun s b i w hr hb hi hw => busRead_written hr hb hi hw,
    fun s b i hr hb hi hw => ?_⟩
  · rcases busRead_state h with rfl | rfl <;> rfl
  · obtain rfl : t = s := busRead_idle_state hr hb ha h
    exact ⟨rfl, h⟩
  · rw [busRead_unwritten hr hb hi hw, State.draw, Buf.mask_eq]

end Sys2Proof.Machine
end

section
/-! SUPPORT. The decoder both ways and when a word is illegal (30_encoding R90 to R94), the engine's turn on an illegal
word and while not configured (R93, R95), and what a command's pseudocode leaves when it ends well (R91). -/

namespace Sys2Proof.Machine

/-! ### The decoder (30_encoding R92 to R94) -/

/-- The twenty commands in the opcode map's order (R92). -/
def Instr.all : List Instr :=
  [.nop, .configure, .gfMul, .gfDiv, .gfExp, .gfLog, .polyScale, .polyAdd, .polyMul, .polyEval, .genPoly, .encode,
    .load, .syndrome, .forneySyn, .bm, .chien, .correct, .verify, .decode]

theorem Instr.mem_all (i : Instr) : i ∈ Instr.all := by cases i <;> decide

theorem decodeWord_encode (i : Instr) : decodeWord (encode i) = .ok i := by cases i <;> rfl

/-- The decoder is the inverse of the encoder (R94). -/
theorem decodeWord_eq_ok_iff (w : Word) (i : Instr) : decodeWord w = .ok i ↔ w = encode i :=
  ⟨decodeWord_eq_ok, fun h => h ▸ decodeWord_encode i⟩

theorem exists_decodeWord_iff (w : Word) : (∃ i, decodeWord w = .ok i) ↔ w ∈ Instr.all.map encode := by
  simp only [decodeWord_eq_ok_iff, List.mem_map, Instr.mem_all, true_and, @eq_comm _ w]

/-- A word is legal when RSVD is 0 and OPCODE in the map (R93). -/
theorem decodeWord_of_fields {w : Word} {i : Instr} (hr : rsvdField w = 0)
    (ho : Instr.ofOpcode? (opcodeField w) = some i) : decodeWord w = .ok i := by
  rw [decodeWord, if_neg (not_not.2 hr), ho]

theorem decodeWord_ne_ok_of_fields {w : Word} (h : rsvdField w ≠ 0 ∨ Instr.ofOpcode? (opcodeField w) = none)
    (i : Instr) : decodeWord w ≠ .ok i := by
  unfold decodeWord
  rcases h with hr | ho
  · rw [if_pos hr]; exact nofun
  · rw [ho]; split <;> exact nofun

/-! ### The engine's turn (30_encoding R93, R95) -/

section
variable {s : State} (hr : s.rst = false) (hb : s.busy = true) (hw : s.wait = 0 ∨ s.host = [])
include hr hb hw

theorem step_of_legal {i : Instr} (h : decodeWord s.pending = .ok i) : step s = exec i s := by
  rw [step_of_engineTurn (s.engineTurn_eq_true_iff.2 ⟨hr, hb, hw⟩), runPending_of_decode h]

theorem step_of_illegal (h : ∀ i, decodeWord s.pending ≠ .ok i) : step s = .next (s.finish .illegalCommand) := by
  rw [step_of_engineTurn (s.engineTurn_eq_true_iff.2 ⟨hr, hb, hw⟩)]
  cases hd : decodeWord s.pending with
  | ok i => exact absurd hd (h i)
  | error e => exact runPending_of_illegal hd

end

theorem execDecode_of_unconfigured {s : State} (h : s.configured = false) :
    execDecode s = .next (s.finish .notConfigured) :=
  runStage_of_fail (by rw [needConfigured, failIf_pos h]; rfl) _

/-- Every command but NOP and CONFIGURE begins with the NOT_CONFIGURED check (R93). -/
theorem exec_of_unconfigured {i : Instr} {s : State} (hn : i ≠ .nop) (hc : i ≠ .configure) (h : s.configured = false) :
    exec i s = .next (s.finish .notConfigured) := by
  cases i with
  | nop => exact absurd rfl hn
  | configure => exact absurd rfl hc
  | decode => exact execDecode_of_unconfigured h
  | _ => exact configuredCommand_of_unconfigured h _

/-! ### Frames -/

/-- A store to entries below `L` of a buffer changes no byte outside them. -/
theorem Memory.read?_store_outside (m : Memory) {b : Buf} {vs : List Nat} {L a : Nat} (hl : vs.length ≤ L)
    (ha : ¬InEntries b L a) : (m.store b vs).read? a = m.read? a :=
  Memory.read?_store_other m b vs (by unfold InEntries at ha; omega)

/-! ### The scalar commands (40_field_engine R116 to R119, 41_polynomial R147) -/

/-- Pseudocode that writes RESULT only. -/
abbrev WritesResult (body : State → Except Stop State) : Prop :=
  ∀ s, Yields s.mem (fun u => ∃ v, u = { s with result := v }) (body s)

theorem writesResult_gfMulBody : WritesResult gfMulBody := fun s =>
  (onlyReads_scalarSym s _).bind fun _ => (onlyReads_scalarSym s _).bind fun _ => .ok ⟨_, rfl⟩

theorem writesResult_gfDivBody : WritesResult gfDivBody := fun s =>
  (onlyReads_scalarSym s _).bind fun _ => (onlyReads_scalarSym s _).bind fun _ =>
  (onlyReads_gfDiv ..).bind fun _ => .ok ⟨_, rfl⟩

theorem writesResult_gfExpBody : WritesResult gfExpBody := fun _ => onlyReads_failIf.bind fun _ => .ok ⟨_, rfl⟩

theorem writesResult_gfLogBody : WritesResult gfLogBody := fun _ =>
  onlyReads_failIf.bind fun _ => onlyReads_failIf.bind fun _ => .ok ⟨_, rfl⟩

theorem writesResult_polyEvalBody : WritesResult polyEvalBody := fun s =>
  (onlyReads_readLen _).bind fun _ => (onlyReads_readSyms s ..).bind fun _ =>
  (onlyReads_scalarSym s _).bind fun _ => .ok ⟨_, rfl⟩

theorem WritesResult.frame {body : State → Except Stop State} (hbody : WritesResult body) {s t : State}
    (h : configuredCommand s body = .next t) :
    t = { s with result := t.result, code := t.code, busy := false, done := true } ∧
    ∀ a, t.mem.read? a = s.mem.read? a := by
  rcases configuredCommand_cases h with ⟨-, u, hu, rfl⟩ | ⟨c, rfl⟩
  · obtain ⟨v, rfl⟩ := (hbody s).eq_ok hu
    exact ⟨rfl, fun _ => rfl⟩
  · exact ⟨rfl, fun _ => rfl⟩

/-! ### The polynomial commands (41_polynomial R144 to R146, R149) -/

theorem readLen_eq_ok {r : Word} {L : Nat} (h : readLen r = .ok L) : L = r.toNat := by
  simp only [readLen, bind_eq_ok, pure_eq_ok, Except.ok.injEq] at h
  obtain ⟨-, -, rfl⟩ := h
  rfl

/-- A body that writes `L` entries of PR at most, and LEN_R. -/
def WritesProduct (s : State) (L : Nat) (u : State) : Prop :=
  ∃ p r, p.length ≤ L ∧ u = { s with mem := s.mem.store .pr p, lenR := r }

theorem polyScaleBody_eq_ok {s u : State} (h : polyScaleBody s = .ok u) : WritesProduct s s.lenA.toNat u := by
  simp only [polyScaleBody, bind_eq_ok, pure_eq_ok, Except.ok.injEq] at h
  obtain ⟨L, hL, p, hp, x, -, rfl⟩ := h
  refine ⟨_, _, ?_, rfl⟩
  rw [polyScale_length, readRange_length hp, readLen_eq_ok hL]

theorem polyAddBody_eq_ok {s u : State} (h : polyAddBody s = .ok u) :
    WritesProduct s (max s.lenA.toNat s.lenB.toNat) u := by
  simp only [polyAddBody, bind_eq_ok, pure_eq_ok, Except.ok.injEq] at h
  obtain ⟨la, ha, lb, hb, p, hp, r, hr, rfl⟩ := h
  refine ⟨_, _, ?_, rfl⟩
  rw [polyAdd_length, readRange_length hp, readRange_length hr, readLen_eq_ok ha, readLen_eq_ok hb]

theorem polyMulBody_eq_ok {s u : State} (h : polyMulBody s = .ok u) :
    WritesProduct s (s.lenA.toNat + s.lenB.toNat - 1) u := by
  simp only [polyMulBody, bind_eq_ok, pure_eq_ok, Except.ok.injEq] at h
  obtain ⟨la, ha, lb, hb, p, hp, r, hr, rfl⟩ := h
  refine ⟨_, _, ?_, rfl⟩
  rw [polyMul_length, readRange_length hp, readRange_length hr, readLen_eq_ok ha, readLen_eq_ok hb]

theorem product_frame {body : State → Except Stop State} {s t : State} {L : Nat}
    (hbody : ∀ {u}, body s = .ok u → WritesProduct s L u) (h : configuredCommand s body = .next t) :
    t = { s with mem := t.mem, lenR := t.lenR, code := t.code, busy := false, done := true } ∧
    ∀ a, ¬InEntries .pr L a → t.mem.read? a = s.mem.read? a := by
  rcases configuredCommand_cases h with ⟨-, u, hu, rfl⟩ | ⟨c, rfl⟩
  · obtain ⟨p, r, hp, rfl⟩ := hbody hu
    exact ⟨rfl, fun _ ha => s.mem.read?_store_outside hp ha⟩
  · exact ⟨rfl, fun _ _ => rfl⟩

/-! ### The encoder's commands (42_encoder R161, R163) -/

theorem genPolyBody_eq_ok {s u : State} (h : genPolyBody s = .ok u) :
    ∃ g r, g.length ≤ s.cfg.nsym + 1 ∧ u = { s with mem := s.mem.store .gen g, lenGen := r } := by
  cases h
  exact ⟨_, _, (generator_length ..).le, rfl⟩

theorem encodeBody_eq_ok {s u : State} (h : encodeBody s = .ok u) :
    ∃ g c r r', g.length ≤ s.cfg.nsym + 1 ∧ c.length ≤ s.lenIn.toNat + s.cfg.nsym ∧
      u = { s with mem := (s.mem.store .gen g).store .out c, lenGen := r, lenOut := r' } := by
  simp only [encodeBody, bind_eq_ok, pure_eq_ok, Except.ok.injEq] at h
  obtain ⟨-, -, msg, hm, rfl⟩ := h
  refine ⟨_, _, _, _, (generator_length ..).le, ?_, rfl⟩
  have := encodeBlock_length_le s.field s.cfg.nsym msg
  rwa [readRange_length hm] at this

end Sys2Proof.Machine
end

section
/-! PROOFS. The statements of 30_encoding on the decoder, on dispatch, and on the frames of the commands that are no
stage of DECODE. -/

namespace Sys2Proof.Machine

/-- Settles O1, by evaluation of the decoder on the twelve words. -/
theorem opcodeMapWords : Obligations.OpcodeMapWords :=
  ⟨rfl, rfl, rfl, rfl, rfl, rfl, rfl, rfl, rfl, rfl, rfl, rfl⟩

/-- Settles O2: the decoder is the encoder's inverse, and the words listed are the encodings of the twenty commands. -/
theorem onlyTwentyWordsAreLegal : Obligations.OnlyTwentyWordsAreLegal := fun w =>
  ⟨decodeWord_eq_ok_iff w, exists_decodeWord_iff w, fun hw _ hr hb ht hp => step_of_illegal hr hb ht (hp ▸ hw)⟩

/-- Settles O4: the decoder's two tests come first, then the check at the head of every other command than NOP
and CONFIGURE. -/
theorem dispatchOrder : Obligations.DispatchOrder := by
  refine fun s hr hb ht => ⟨fun h => step_of_illegal hr hb ht (decodeWord_ne_ok_of_fields h), fun i h0 ho => ?_⟩
  have hstep := step_of_legal hr hb ht (decodeWord_of_fields h0 ho)
  exact ⟨fun hn hc hu => hstep.trans (exec_of_unconfigured hn hc hu), fun _ => hstep⟩

/-- Settles O5: an illegal word runs no command, and CMD is a register, so that its write is legal. -/
theorem illegalWordChangesOnlyStatus : Obligations.IllegalWordChangesOnlyStatus :=
  ⟨fun _ hr hb ht h => step_of_illegal hr hb ht fun i hd => h i (decodeWord_eq_ok hd), rfl,
    fun s w => ⟨_, busWrite_of_locate (locate_reg .cmd) s w⟩⟩

/-- Settles O46: NOP's pseudocode changes nothing, and CONFIGURE's sets cfg, the tables and CONFIGURED. -/
theorem controlCommandsFrame : Obligations.ControlCommandsFrame := by
  refine fun s t => ⟨fun h => ?_, fun h => ?_⟩
  · rcases command_cases (body := fun s => pure s) h with ⟨u, hu, rfl⟩ | ⟨c, -, rfl⟩
    · cases hu; exact ⟨rfl, fun _ => rfl⟩
    · exact ⟨rfl, fun _ => rfl⟩
  · rcases command_cases (body := configureBody) h with ⟨u, hu, rfl⟩ | ⟨c, -, rfl⟩
    · obtain ⟨-, -, rfl⟩ := configureBody_eq_ok hu
      exact ⟨rfl, fun _ => rfl⟩
    · exact ⟨rfl, fun _ => rfl⟩

/-- Settles O41: the pseudocode of each of the five writes RESULT only. -/
theorem scalarCommandsFrame : Obligations.ScalarCommandsFrame := by
  intro i s t hi h
  fin_cases hi
  · exact writesResult_gfMulBody.frame h
  · exact writesResult_gfDivBody.frame h
  · exact writesResult_gfExpBody.frame h
  · exact writesResult_gfLogBody.frame h
  · exact writesResult_polyEvalBody.frame h

/-- Settles O42: each stores to PR as many values as the lengths of its operands give. -/
theorem polynomialCommandsFrame : Obligations.PolynomialCommandsFrame := by
  intro i s t hi h
  fin_cases hi
  · obtain ⟨ht, hm⟩ := product_frame polyScaleBody_eq_ok h
    exact ⟨ht, fun _ => hm, nofun, nofun⟩
  · obtain ⟨ht, hm⟩ := product_frame polyAddBody_eq_ok h
    exact ⟨ht, nofun, fun _ => hm, nofun⟩
  · obtain ⟨ht, hm⟩ := product_frame polyMulBody_eq_ok h
    exact ⟨ht, nofun, nofun, fun _ => hm⟩

/-- Settles O43: the generator has nsym + 1 coefficients and the encoded block LEN_IN + nsym symbols. -/
theorem encoderCommandsFrame : Obligations.EncoderCommandsFrame := by
  refine fun s t => ⟨fun h => ?_, fun h => ?_⟩
  · rcases configuredCommand_cases (body := genPolyBody) h with ⟨-, u, hu, rfl⟩ | ⟨c, rfl⟩
    · obtain ⟨g, r, hg, rfl⟩ := genPolyBody_eq_ok hu
      exact ⟨rfl, fun a ha => s.mem.read?_store_outside hg ha⟩
    · exact ⟨rfl, fun _ _ => rfl⟩
  · rcases configuredCommand_cases (body := encodeBody) h with ⟨-, u, hu, rfl⟩ | ⟨c, rfl⟩
    · obtain ⟨g, c, r, r', hg, hc, rfl⟩ := encodeBody_eq_ok hu
      exact ⟨rfl, fun a ha ha' =>
        ((s.mem.store .gen g).read?_store_outside hc ha').trans (s.mem.read?_store_outside hg ha)⟩
    · exact ⟨rfl, fun _ _ _ => rfl⟩

end Sys2Proof.Machine
end

section
/-! SUPPORT. How each stage of DECODE ends, with what it leaves and the codes it can fail with (43_decoder_front R180,
R183, R185, 44_locator R201, R204, 45_correction R222, R223). -/

namespace Sys2Proof.Machine

/-! ### How pseudocode ends, with its failure codes -/

/-- A computation ends with a value that has `P`, with a failure code that has `C` (R14), or at a model fault (R16). -/
inductive Ends {α : Type} (C : StatusCode → Prop) (P : α → Prop) : Except Stop α → Prop
  | ok {a : α} (h : P a) : Ends C P (.ok a)
  | fail {c : StatusCode} (h : C c) : Ends C P (.error (.fail c))
  | fault (f : Fault) : Ends C P (.error (.fault f))

section
variable {α β : Type} {C : StatusCode → Prop} {P : α → Prop}

theorem Ends.bind {Q : β → Prop} {x : Except Stop α} {k : α → Except Stop β} (hx : Ends C P x)
    (hk : ∀ a, P a → Ends C Q (k a)) : Ends C Q (x >>= k) := by
  cases hx with
  | ok h => exact hk _ h
  | fail h => exact .fail h
  | fault f => exact .fault f

theorem Ends.eq_ok {x : Except Stop α} {a : α} (h : Ends C P x) (ha : x = .ok a) : P a := by
  subst ha; cases h; assumption

theorem Ends.eq_fail {x : Except Stop α} {c : StatusCode} (h : Ends C P x) (hc : x = .error (.fail c)) : C c := by
  subst hc; cases h; assumption

theorem ends_failIf {p : Prop} [Decidable p] {c : StatusCode} (h : p → C c) : Ends C (fun _ => ¬p) (failIf p c) := by
  unfold failIf
  split
  · exact .fail (h ‹_›)
  · exact .ok ‹_›

theorem Ends.mono {Q : α → Prop} {x : Except Stop α} (h : Ends C P x) (hq : ∀ a, P a → Q a) : Ends C Q x := by
  cases h with
  | ok h => exact .ok (hq _ h)
  | fail h => exact .fail h
  | fault f => exact .fault f

/-- A command behind the NOT_CONFIGURED check that goes on. -/
theorem Ends.configuredCommand_cases {body : State → Except Stop State} {P : State → Prop} {s t : State}
    (hb : Ends C P (body s)) (h : configuredCommand s body = .next t) :
    (∃ u, P u ∧ t = u.finish .ok) ∨ (∃ c, t = s.finish c) := by
  rcases Machine.configuredCommand_cases h with ⟨-, u, hu, rfl⟩ | hc
  · exact .inl ⟨u, hb.eq_ok hu, rfl⟩
  · exact .inr hc

/-- A stage of DECODE and what follows it, when the machine goes on. -/
theorem Ends.runStage_cases {stage : State → Except Stop State} {rest : State → Result} {P : State → Prop}
    {s t : State} (hst : Ends C P (stage s)) (h : runStage stage s rest = .next t) :
    (∃ u, P u ∧ rest u = .next t) ∨ (∃ c, C c ∧ t = s.finish c) := by
  rcases Machine.runStage_cases h with ⟨u, hu, hr⟩ | ⟨c, hc, rfl⟩
  · exact .inl ⟨u, hst.eq_ok hu, hr⟩
  · exact .inr ⟨c, hst.eq_fail hc, rfl⟩

/-! ### Operands (40_field_engine R111, 43_decoder_front R180) -/

/-- A read of a range, where the read of entry `j` shows `R j` and gives `g j`. -/
theorem ends_readRangeFrom {rd : Nat → Except Stop α} {R : Nat → Prop} {g : Nat → α} {i k : Nat}
    (h : ∀ j < k, Ends C (fun v => R (i + j) ∧ v = g (i + j)) (rd (i + j))) :
    Ends C (fun vs => (∀ j < k, R (i + j)) ∧ vs = (List.range' i k).map g) (readRange rd i k) := by
  induction k generalizing i with
  | zero => exact .ok ⟨fun j hj => absurd hj (Nat.not_lt_zero j), rfl⟩
  | succ k ih =>
    refine (h 0 k.succ_pos).bind fun v ⟨h0, hv⟩ => (ih (i := i + 1) fun j hj => ?_).bind fun vs ⟨hs, hvs⟩ =>
      .ok ⟨?_, ?_⟩
    · simpa only [Nat.add_assoc, Nat.add_comm 1 j] using h (j + 1) (Nat.succ_lt_succ hj)
    · rintro (_ | j) hj
      · exact h0
      · simpa only [Nat.add_assoc, Nat.add_comm 1 j] using hs j (Nat.lt_of_succ_lt_succ hj)
    · rw [hv, hvs, List.range'_succ, List.map_cons, Nat.add_zero]

theorem ends_readRange {rd : Nat → Except Stop α} {R : Nat → Prop} {g : Nat → α} {k : Nat}
    (h : ∀ j < k, Ends C (fun v => R j ∧ v = g j) (rd j)) :
    Ends C (fun vs => (∀ j < k, R j) ∧ vs = (List.range k).map g) (readRange rd 0 k) := by
  have := ends_readRangeFrom (i := 0) (R := R) (g := g) (rd := rd) fun j hj => by
    rw [Nat.zero_add]; exact h j hj
  simpa only [Nat.zero_add, List.range_eq_range'] using this

end

section
variable {C : StatusCode → Prop} {s : State}

theorem ends_readEntry (b : Buf) (i : Nat) : Ends C (fun w => s.mem.entry? b i = some w) (readEntry s b i) := by
  unfold readEntry
  split
  · exact .ok ‹_›
  · exact .fault _

/-- A checked read of the first entries of a buffer: read_syms, or positions below a limit (R111). -/
theorem ends_readChecked {b : Buf} {L limit : Nat} {c : StatusCode} (h : ¬s.PositionsReady b L limit → C c) :
    Ends C (fun vs => s.PositionsReady b L limit ∧ vs = s.symsOf b L)
      (readRange (fun i => do
        let w ← readEntry s b i
        failIf (limit ≤ symField w) c
        pure (symField w)) 0 L) := by
  refine (ends_readRange (R := fun j => (s.mem.entry? b j).isSome = true ∧ s.symAt b j < limit) (g := s.symAt b)
    fun j hj => (ends_readEntry b j).bind fun w hw => ?_).mono fun vs ⟨hr, hv⟩ =>
      ⟨⟨fun j hj => (hr j hj).1, fun j hj => (hr j hj).2⟩, hv⟩
  have hv : s.symAt b j = symField w := by rw [State.symAt, hw, Option.getD_some]
  rw [hw, hv]
  exact (ends_failIf fun hq => h fun hr => (hv ▸ hr.2 j hj).not_ge hq).bind fun _ hq => .ok ⟨⟨rfl, not_le.1 hq⟩, rfl⟩

theorem ends_readSyms {b : Buf} {L : Nat} (h : ¬s.SymsReady b L → C .invalidSymbol) :
    Ends C (fun vs => s.SymsReady b L ∧ vs = s.symsOf b L) (readSyms s b L) := ends_readChecked h

theorem ends_readPositions {b : Buf} {L limit : Nat} (h : ¬s.PositionsReady b L limit → C .operandRange) :
    Ends C (fun vs => s.PositionsReady b L limit ∧ vs = s.symsOf b L) (readPositions s limit b L) := ends_readChecked h

/-- A read with no range check (45_correction R230). -/
theorem ends_readRaw (b : Buf) (L : Nat) : Ends C (· = s.symsOf b L) (readRaw s b L) :=
  (ends_readRange (R := fun _ => True) (g := s.symAt b) fun j _ => (ends_readEntry b j).bind fun w hw =>
    .ok ⟨trivial, by rw [State.symAt, hw, Option.getD_some]⟩).mono fun _ h => h.2

theorem ends_readIn (i : Nat) :
    Ends C (fun p => (s.mem.entry? .inp i).isSome = true ∧ p = (s.erasedAt i, s.symAt .inp i)) (readIn s i) :=
  (ends_readEntry .inp i).bind fun w hw =>
    .ok ⟨by rw [hw, Option.isSome_some], by rw [State.erasedAt, State.symAt, hw, Option.getD_some]⟩

/-- A received symbol (R180): q or more fails, unless it is erased. -/
theorem ends_readReceived_entry (i : Nat) (h : C .invalidSymbol) :
    Ends C (fun o => ((s.mem.entry? .inp i).isSome = true ∧ (s.erasedAt i = false → s.symAt .inp i < s.cfg.q)) ∧
      o = if s.erasedAt i then none else some (s.symAt .inp i)) (readReceived s i) := by
  refine (ends_readIn i).bind fun _ ⟨hw, hp⟩ => ?_
  subst hp
  cases s.erasedAt i with
  | true => exact .ok ⟨⟨hw, nofun⟩, rfl⟩
  | false => exact (ends_failIf fun _ => h).bind fun _ hq => .ok ⟨⟨hw, fun _ => not_le.1 hq⟩, rfl⟩

theorem ends_readReceived {L : Nat} (h : C .invalidSymbol) :
    Ends C (fun rx => s.ReceivedReady L ∧ rx = s.receivedOf L) (readRange (readReceived s) 0 L) :=
  (ends_readRange fun j _ => ends_readReceived_entry j h).mono fun _ ⟨hr, hv⟩ =>
    ⟨⟨fun j hj => (hr j hj).1, fun j hj => (hr j hj).2⟩, hv⟩

theorem ends_readNmess (h : s.cfg.n < s.lenWork.toNat → C .inputTooLong) :
    Ends C (· = s.lenWork.toNat) (readNmess s) :=
  (ends_failIf h).bind fun _ _ => .ok rfl

end

/-! ### What each stage leaves -/

/-- LOAD's writes: WORK, ERA and their lengths (R180). -/
def State.putLoad (s : State) (rx : List (Option Nat)) : State :=
  { s with
    mem := (s.mem.store .work (workingCodeword rx)).store .era (erasuresFrom 0 rx)
    lenWork := s.lenIn
    numEra := zext32 (erasuresFrom 0 rx).length }

/-- SYNDROME's writes (R183). -/
def State.putSyn (s : State) (S : List Nat) : State :=
  { s with mem := s.mem.store .syn S, lenSyn := zext32 S.length }

/-- FORNEY_SYN's writes (R185). -/
def State.putFsyn (s : State) (F : List Nat) : State :=
  { s with mem := s.mem.store .fsyn F, lenFsyn := zext32 F.length }

/-- BM's writes (R201). -/
def State.putLoc (s : State) (loc : List Nat) : State :=
  { s with mem := s.mem.store .loc loc, lenLoc := zext32 loc.length }

/-- CHIEN's writes (R204). -/
def State.putErrpos (s : State) (pos : List Nat) : State :=
  { s with mem := s.mem.store .errpos pos, numErrpos := zext32 pos.length }

@[simp] theorem State.symsOf_length (s : State) (b : Buf) (L : Nat) : (s.symsOf b L).length = L := by
  simp [State.symsOf]

@[simp] theorem State.receivedOf_length (s : State) (L : Nat) : (s.receivedOf L).length = L := by
  simp [State.receivedOf]

section
variable {C : StatusCode → Prop} {s : State}

theorem ends_loadBody (s : State) :
    Ends (fun _ => True) (fun u => s.lenIn.toNat ≤ s.cfg.n ∧ s.ReceivedReady s.lenIn.toNat ∧
      (erasuresFrom 0 (s.receivedOf s.lenIn.toNat)).length ≤ s.cfg.nsym ∧
      u = s.putLoad (s.receivedOf s.lenIn.toNat)) (loadBody s) := by
  refine (ends_failIf fun _ => trivial).bind fun _ hL => (ends_readReceived trivial).bind fun rx ⟨hr, hrx⟩ => ?_
  subst hrx
  refine (ends_failIf fun _ => trivial).bind fun _ he => .ok ⟨not_lt.1 hL, hr, not_lt.1 he, ?_⟩
  rw [State.putLoad, zext32_word]

theorem ends_syndromeBody (hn : s.cfg.n < s.lenWork.toNat → C .inputTooLong)
    (hw : ¬s.SymsReady .work s.lenWork.toNat → C .invalidSymbol) :
    Ends C (· = s.putSyn (syndromes s.field s.cfg.nsym (s.symsOf .work s.lenWork.toNat))) (syndromeBody s) := by
  refine (ends_readNmess hn).bind fun _ hnm => ?_
  subst hnm
  refine (ends_readSyms hw).bind fun _ ⟨_, hv⟩ => .ok ?_
  rw [hv, State.putSyn, syndromes_length]

theorem ends_forneySynBody (hn : s.cfg.n < s.lenWork.toNat → C .inputTooLong)
    (hL : 65536 < s.lenSyn.toNat → C .operandRange) (he : s.lenSyn.toNat < s.numEra.toNat → C .tooManyErasures)
    (hS : ¬s.SymsReady .syn s.lenSyn.toNat → C .invalidSymbol)
    (hp : ¬s.PositionsReady .era s.numEra.toNat s.lenWork.toNat → C .operandRange) :
    Ends C (· = s.putFsyn (forney s.field (s.symsOf .syn s.lenSyn.toNat) (s.symsOf .era s.numEra.toNat)
      s.lenWork.toNat)) (forneySynBody s) := by
  refine (ends_readNmess hn).bind fun _ hnm => ?_
  subst hnm
  refine (ends_failIf hL).bind fun _ _ => (ends_failIf he).bind fun _ _ =>
    (ends_readSyms hS).bind fun _ ⟨_, hS'⟩ => (ends_readPositions hp).bind fun _ ⟨_, hp'⟩ => .ok ?_
  rw [hS', hp', State.putFsyn, forney_length, State.symsOf_length, State.symsOf_length]

theorem ends_bmBody (hL : 65536 < s.lenFsyn.toNat → C .operandRange)
    (hS : ¬s.SymsReady .fsyn s.lenFsyn.toNat → C .invalidSymbol) (he : C .tooManyErrors) :
    Ends C (· = s.putLoc (bmLocator s.field (s.symsOf .fsyn s.lenFsyn.toNat))) (bmBody s) := by
  refine (ends_failIf hL).bind fun _ _ => (ends_readSyms hS).bind fun _ ⟨_, hv⟩ => ?_
  subst hv
  exact (ends_failIf fun _ => he).bind fun _ _ => .ok rfl

theorem ends_chienBody (hr : C .operandRange) (hn : s.cfg.n < s.lenWork.toNat → C .inputTooLong)
    (hS : ¬s.SymsReady .loc s.lenLoc.toNat → C .invalidSymbol) (hp : C .errorLocationFailure) :
    Ends C (· = s.putErrpos (chienPositions s.field (s.symsOf .loc s.lenLoc.toNat) s.lenWork.toNat))
      (chienBody s) := by
  refine (ends_failIf fun _ => hr).bind fun _ _ => (ends_readNmess hn).bind fun _ hnm => ?_
  subst hnm
  refine (ends_readSyms hS).bind fun _ ⟨_, hv⟩ => ?_
  subst hv
  refine Ends.bind (P := (· = chienPositions s.field (s.symsOf .loc s.lenLoc.toNat) s.lenWork.toNat))
    ((ends_failIf fun _ => hp).bind fun _ _ => .ok rfl) fun _ hpos => .ok ?_
  rw [hpos, State.putErrpos]

/-- Magnitudes are quotients (R221), or a denominator is 0. -/
theorem ends_magnitudes (f : Field) (om der : List Nat) (nmess : Nat) (pos : List Nat) (h : C .divisionByZero) :
    Ends C (fun vs => ∀ v ∈ vs, ∃ x y, v = gfQuot f x y) (magnitudes f om der nmess pos) := by
  induction pos with
  | nil => exact .ok nofun
  | cons p ps ih =>
    refine Ends.bind (P := fun v => ∃ x y, v = gfQuot f x y)
      ((ends_failIf fun _ => h).bind fun _ _ => .ok ⟨_, _, rfl⟩) fun v hv => ih.bind fun vs hvs => .ok ?_
    exact List.forall_mem_cons.2 ⟨hv, hvs⟩

/-- CORRECT writes nothing, or XORs quotients into WORK (R222). -/
theorem ends_correctBody (hn : s.cfg.n < s.lenWork.toNat → C .inputTooLong) (hr : C .operandRange)
    (hw : ¬s.SymsReady .work s.lenWork.toNat → C .invalidSymbol)
    (hS : s.numEra.toNat + s.numErrpos.toNat ≤ s.lenSyn.toNat →
      ¬s.SymsReady .syn (s.numEra.toNat + s.numErrpos.toNat) → C .invalidSymbol) (hd : C .divisionByZero) :
    Ends C (fun u => u = s ∨ ∃ pos vs, (∀ v ∈ vs, ∃ x y, v = gfQuot s.field x y) ∧
      u = { s with mem := s.mem.store .work (applyErrata (s.symsOf .work s.lenWork.toNat) pos vs) })
      (correctBody s) := by
  refine (ends_readNmess hn).bind fun _ hnm => ?_
  subst hnm
  refine (ends_failIf fun _ => hr).bind fun _ _ => (ends_failIf fun _ => hr).bind fun _ _ => ?_
  dsimp only
  split
  · exact .ok (.inl rfl)
  · refine (ends_failIf fun _ => hr).bind fun _ hE => (ends_readSyms hw).bind fun w ⟨_, hw'⟩ =>
      (ends_readSyms (hS (not_lt.1 hE))).bind fun S _ => (ends_readPositions fun _ => hr).bind fun era _ =>
      (ends_readPositions fun _ => hr).bind fun err _ => ?_
    subst hw'
    exact Ends.bind (P := fun w' => ∃ pos vs, (∀ v ∈ vs, ∃ x y, v = gfQuot s.field x y) ∧
        w' = applyErrata (s.symsOf .work s.lenWork.toNat) pos vs)
      ((ends_magnitudes _ _ _ _ _ hd).bind fun vs hvs => .ok ⟨_, vs, hvs, rfl⟩)
      fun w' ⟨pos, vs, hvs, hw'⟩ => .ok (.inr ⟨pos, vs, hvs, by rw [hw']⟩)

theorem ends_verifyBody (hn : s.cfg.n < s.lenWork.toNat → C .inputTooLong)
    (hw : ¬s.SymsReady .work s.lenWork.toNat → C .invalidSymbol) (hv : C .correctionVerificationFailure) :
    Ends C (· = writeMessage s s.lenWork.toNat (s.symsOf .work s.lenWork.toNat)) (verifyBody s) := by
  refine (ends_readNmess hn).bind fun _ hnm => ?_
  subst hnm
  refine (ends_readSyms hw).bind fun _ ⟨_, hw'⟩ => ?_
  subst hw'
  exact (ends_failIf fun _ => hv).bind fun _ _ => .ok rfl

theorem ends_synAllZero (s : State) : Ends C (· = allZero (s.symsOf .syn s.cfg.nsym)) (synAllZero s) :=
  (ends_readRaw ..).bind fun _ h => .ok (by rw [h])

theorem ends_shortCircuit (s : State) :
    Ends C (fun u => ∃ w, u = writeMessage s s.lenWork.toNat w) (shortCircuit s) :=
  (ends_readRaw ..).bind fun _ _ => .ok ⟨_, rfl⟩

end

end Sys2Proof.Machine
end

section
/-! PROOFS. The statement of 30_encoding on the frames of the stages. -/

namespace Sys2Proof.Machine

/-- Settles O44: each stage stores one sequence to each buffer it writes, as long as its meaning makes it. -/
theorem stageCommandsFrame : Obligations.StageCommandsFrame := by
  have any {p : Prop} : p → True := fun _ => trivial
  refine fun s t => ⟨fun h => ?_, fun h => ?_, fun h => ?_, fun h => ?_, fun h => ?_, fun h => ?_, fun h => ?_⟩
  · rcases (ends_loadBody s).configuredCommand_cases h with ⟨_, ⟨-, -, -, rfl⟩, rfl⟩ | ⟨c, rfl⟩
    · refine ⟨rfl, fun a ha ha' =>
        (Memory.read?_store_outside _ le_rfl ha').trans (Memory.read?_store_outside _ ?_ ha)⟩
      rw [workingCodeword_length, State.receivedOf_length]
    · exact ⟨rfl, fun _ _ _ => rfl⟩
  · rcases (ends_syndromeBody (C := fun _ => True) any any).configuredCommand_cases h with
      ⟨_, rfl, rfl⟩ | ⟨c, rfl⟩
    · exact ⟨rfl, fun a ha => Memory.read?_store_outside _ (syndromes_length ..).le ha⟩
    · exact ⟨rfl, fun _ _ => rfl⟩
  · rcases (ends_forneySynBody (C := fun _ => True) any any any any any).configuredCommand_cases h with
      ⟨_, rfl, rfl⟩ | ⟨c, rfl⟩
    · refine ⟨rfl, fun a ha => Memory.read?_store_outside _ ?_ ha⟩
      rw [forney_length, State.symsOf_length, State.symsOf_length]
    · exact ⟨rfl, fun _ _ => rfl⟩
  · rcases (ends_bmBody (C := fun _ => True) any any trivial).configuredCommand_cases h with
      ⟨_, rfl, rfl⟩ | ⟨c, rfl⟩
    · exact ⟨rfl, fun a ha => Memory.read?_store_outside _ le_rfl ha⟩
    · exact ⟨rfl, fun _ _ => rfl⟩
  · rcases (ends_chienBody (C := fun _ => True) trivial any any trivial).configuredCommand_cases h with
      ⟨_, rfl, rfl⟩ | ⟨c, rfl⟩
    · exact ⟨rfl, fun a ha => Memory.read?_store_outside _ le_rfl ha⟩
    · exact ⟨rfl, fun _ _ => rfl⟩
  · rcases (ends_correctBody (C := fun _ => True) any trivial any (fun _ => any) trivial).configuredCommand_cases h with
      ⟨_, rfl | ⟨pos, vs, -, rfl⟩, rfl⟩ | ⟨c, rfl⟩
    · exact ⟨rfl, fun _ _ => rfl⟩
    · refine ⟨rfl, fun a ha => Memory.read?_store_outside _ ?_ ha⟩
      rw [applyErrata_length, State.symsOf_length]
    · exact ⟨rfl, fun _ _ => rfl⟩
  · rcases (ends_verifyBody (C := fun _ => True) any any trivial).configuredCommand_cases h with
      ⟨_, rfl, rfl⟩ | ⟨c, rfl⟩
    · exact ⟨rfl, fun a ha => Memory.read?_store_outside _ (List.length_take_le ..) ha⟩
    · exact ⟨rfl, fun _ _ => rfl⟩

end Sys2Proof.Machine
end

section
/-! SUPPORT. Where the tables hold symbols, so do the results of the field, polynomial and decoder functions; and what
a store leaves to read back (10_state R38 to R40). -/

namespace Sys2Proof.Machine

/-! ### Symbols (00_scope R8) -/

/-- EXP holds symbols below q, and q is a power of two, so that XOR keeps to symbols. -/
structure Field.Closed (f : Field) (q : Nat) : Prop where
  exp_lt : ∀ i, f.expAt i < q
  xor_lt : ∀ {x y}, x < q → y < q → x ^^^ y < q

theorem forall_mem_zipWith {g : Nat → Nat → Nat} {P : Nat → Prop} {p r : List Nat}
    (hg : ∀ a ∈ p, ∀ b ∈ r, P (g a b)) : ∀ v ∈ List.zipWith g p r, P v := by
  rw [← List.map_uncurry_zip_eq_zipWith]
  exact List.forall_mem_map.2 fun ⟨a, b⟩ h => hg a (List.of_mem_zip h).1 b (List.of_mem_zip h).2

section
variable {f : Field} {q : Nat} (hf : f.Closed q)
include hf

theorem Field.Closed.pos : 0 < q := Nat.zero_lt_of_lt (hf.exp_lt 0)

theorem Field.Closed.gfMul_lt (x y : Nat) : gfMul f x y < q := by
  unfold gfMul
  split
  · exact hf.pos
  · exact hf.exp_lt _

theorem Field.Closed.gfQuot_lt (x y : Nat) : gfQuot f x y < q := by
  unfold gfQuot
  split
  · exact hf.pos
  · exact hf.exp_lt _

theorem Field.Closed.polyScale_lt (p : List Nat) (x : Nat) : ∀ v ∈ polyScale f p x, v < q :=
  List.forall_mem_map.2 fun _ _ => hf.gfMul_lt ..

theorem Field.Closed.padLeft_lt {p : List Nat} (L : Nat) (hp : ∀ v ∈ p, v < q) : ∀ v ∈ padLeft L p, v < q :=
  List.forall_mem_append.2 ⟨fun _ hv => (List.eq_of_mem_replicate hv).trans_lt hf.pos, hp⟩

theorem Field.Closed.polyAdd_lt {p r : List Nat} (hp : ∀ v ∈ p, v < q) (hr : ∀ v ∈ r, v < q) :
    ∀ v ∈ polyAdd p r, v < q :=
  forall_mem_zipWith fun a ha b hb => hf.xor_lt (hf.padLeft_lt _ hp a ha) (hf.padLeft_lt _ hr b hb)

theorem Field.Closed.cwEval_lt {w : List Nat} (hw : ∀ v ∈ w, v < q) (x : Nat) : cwEval f w x < q := by
  cases w with
  | nil => exact hf.pos
  | cons c cs =>
    refine List.foldlRecOn (motive := (· < q)) cs _ (hw c (by simp)) fun y _ d hd => ?_
    exact hf.xor_lt (hf.gfMul_lt y x) (hw d (by simp [hd]))

theorem Field.Closed.syndromes_lt {w : List Nat} (hw : ∀ v ∈ w, v < q) (nsym : Nat) :
    ∀ v ∈ syndromes f nsym w, v < q :=
  List.forall_mem_map.2 fun _ _ => hf.cwEval_lt hw _

theorem Field.Closed.forney_lt {S : List Nat} (hS : ∀ v ∈ S, v < q) (era : List Nat) (nmess : Nat) :
    ∀ v ∈ forney f S era nmess, v < q :=
  List.foldlRecOn (motive := fun F => ∀ v ∈ F, v < q) era _ hS fun _ hF _ _ =>
    forall_mem_zipWith fun a _ b hb => hf.xor_lt (hf.gfMul_lt a _) (hF b (List.mem_of_mem_tail hb))

/-- A round of Berlekamp-Massey keeps to symbols (44_locator R200): what it scales is a product. -/
theorem Field.Closed.bmRound_lt {S : List Nat} {i : Nat} {p : List Nat × List Nat} (h1 : ∀ v ∈ p.1, v < q)
    (h2 : ∀ v ∈ p.2, v < q) : (∀ v ∈ (bmRound f S i p).1, v < q) ∧ ∀ v ∈ (bmRound f S i p).2, v < q := by
  have hold : ∀ v ∈ p.2 ++ [0], v < q := List.forall_mem_append.2 ⟨h2, by simpa using hf.pos⟩
  unfold bmRound
  dsimp only
  split
  · split
    · exact ⟨hf.polyAdd_lt (hf.polyScale_lt _ _) (hf.polyScale_lt _ _), hf.polyScale_lt _ _⟩
    · exact ⟨hf.polyAdd_lt h1 (hf.polyScale_lt _ _), hold⟩
  · exact ⟨h1, hold⟩

theorem Field.Closed.bmLocator_lt (h1 : 1 < q) (S : List Nat) : ∀ v ∈ bmLocator f S, v < q :=
  (repeatUp_invariant (P := fun p : List Nat × List Nat => (∀ v ∈ p.1, v < q) ∧ ∀ v ∈ p.2, v < q)
    (by simpa using h1) fun _ _ _ _ h => hf.bmRound_lt h.1 h.2).1

theorem Field.Closed.xorAt_lt {w : List Nat} (hw : ∀ v ∈ w, v < q) (k : Nat) {x : Nat} (hx : x < q) :
    ∀ v ∈ xorAt w k x, v < q := by
  intro v hv
  obtain ⟨i, hi, rfl⟩ := List.getElem_of_mem hv
  have hi' : i < w.length := by simpa using hi
  have hwi := hw _ (List.getElem_mem hi')
  rw [← List.getD_eq_getElem _ 0 hi, xorAt_getD _ _ _ _ hi', List.getD_eq_getElem _ 0 hi']
  split
  · exact hf.xor_lt hwi hx
  · exact hwi

theorem Field.Closed.applyErrata_lt {w : List Nat} (hw : ∀ v ∈ w, v < q) (pos : List Nat) {vs : List Nat}
    (hv : ∀ v ∈ vs, v < q) : ∀ v ∈ applyErrata w pos vs, v < q := by
  induction pos generalizing w vs with
  | nil => simpa [applyErrata] using hw
  | cons p ps ih =>
    cases vs with
    | nil => simpa [applyErrata] using hw
    | cons x xs =>
      obtain ⟨hx, hxs⟩ := List.forall_mem_cons.1 hv
      exact ih (hf.xorAt_lt hw p hx) hxs

end

/-- The tables of a successful CONFIGURE hold symbols, and q lies in Q_SET (R8, R113). -/
theorem closed_of_cfgValid {s : State} (hp : s.params.wellFormed = true) (hv : s.cfgValid = true) :
    s.field.Closed s.cfg.q ∧ 1 < s.cfg.q ∧ s.cfg.q ≤ 65536 := by
  obtain ⟨hq, -, -, -, hm, hprim, hexp, -⟩ := s.cfgValid_iff.1 hv
  obtain ⟨m, h2, h16, hqm⟩ := mem_qSet_iff.1 hq
  have hm' : s.cfg.m = m := by rw [hm, hqm, Nat.log2_two_pow]
  obtain ⟨hlo, hhi⟩ := primOf_degree hp h2 h16
  rw [hm'] at hprim
  refine ⟨⟨fun i => ?_, fun hx hy => ?_⟩, ?_, ?_⟩
  · simp only [State.field, Field.expAt, hexp, hqm, hprim]
    exact expTable_lt hlo hhi (by omega) i
  · rw [hqm] at hx hy ⊢
    exact Nat.xor_lt_two_pow hx hy
  · rw [hqm]; exact Nat.one_lt_two_pow (by omega)
  · rw [hqm]; exact Nat.pow_le_pow_right (n := 2) (by decide) h16

/-! ### What a store leaves to read back -/

/-- The first entries of a buffer are as an engine write of `vs` leaves them (R38, R39). -/
def Memory.Holds (m : Memory) (b : Buf) (vs : List Nat) : Prop :=
  ∀ i < vs.length, m.entry? b i = some (symWord (vs.getD i 0) &&& b.mask)

theorem Memory.holds_store (m : Memory) (b : Buf) (vs : List Nat) : (m.store b vs).Holds b vs :=
  fun _ hi => m.entry?_store_same b vs hi

/-- A store to one buffer leaves what another holds. -/
theorem Memory.Holds.store {m : Memory} {b c : Buf} {vs ws : List Nat} (h : m.Holds b vs) (hbc : b ≠ c)
    (hv : vs.length ≤ b.depth) (hw : ws.length ≤ c.depth) : (m.store c ws).Holds b vs := fun i hi =>
  (m.entry?_store_other ws (entryAddr_apart_store hw (hi.trans_le hv) (.inl hbc))).trans (h i hi)

section
variable {s : State} {b : Buf} {vs : List Nat} (h : s.mem.Holds b vs)
include h

theorem Memory.Holds.symAt (hv : ∀ v ∈ vs, v < 65536) {i : Nat} (hi : i < vs.length) :
    s.symAt b i = vs[i] := by
  rw [State.symAt, h i hi, Option.getD_some, symField_symWord, List.getD_eq_getElem _ _ hi,
    Nat.mod_eq_of_lt (hv _ (List.getElem_mem hi))]

theorem Memory.Holds.symsOf {L : Nat} (hL : vs.length = L) (hv : ∀ v ∈ vs, v < 65536) : s.symsOf b L = vs :=
  List.ext_getElem (by rw [s.symsOf_length, hL]) fun i _ hi => by simp [State.symsOf, h.symAt hv hi]

theorem Memory.Holds.ready {L limit : Nat} (hL : L ≤ vs.length) (hv : ∀ v ∈ vs, v < limit) (hl : limit ≤ 65536) :
    s.PositionsReady b L limit :=
  ⟨fun i hi => by rw [h i (hi.trans_le hL), Option.isSome_some], fun i hi => by
    rw [h.symAt (fun v hm => (hv v hm).trans_le hl) (hi.trans_le hL)]; exact hv _ (List.getElem_mem _)⟩

/-- The engine reads back what was stored, and its range checks pass (R111). -/
theorem Memory.Holds.readBack {L limit : Nat} (hL : vs.length = L) (hv : ∀ v ∈ vs, v < limit) (hl : limit ≤ 65536) :
    s.PositionsReady b L limit ∧ s.symsOf b L = vs :=
  ⟨h.ready hL.ge hv hl, h.symsOf hL fun v hm => (hv v hm).trans_le hl⟩

end

end Sys2Proof.Machine
end

section
/-! SUPPORT. Where a DECODE can end, begun in a state that meets the invariant (45_correction R230 to R232): what its
stages have stored by then, every value and count computed from the state before. -/

namespace Sys2Proof.Machine

/-! ### What the stages compute -/

/-- The working codeword LOAD stores (R180). -/
def State.decodeWork (s : State) : List Nat := workingCodeword (s.receivedOf s.lenIn.toNat)

/-- The erasures LOAD stores (R180). -/
def State.decodeEra (s : State) : List Nat := erasuresFrom 0 (s.receivedOf s.lenIn.toNat)

/-- The syndromes SYNDROME stores (R183). -/
def State.decodeSyn (s : State) : List Nat := syndromes s.field s.cfg.nsym s.decodeWork

/-- The Forney syndromes FORNEY_SYN stores (R185). -/
def State.decodeFsyn (s : State) : List Nat := forney s.field s.decodeSyn s.decodeEra s.lenIn.toNat

/-- The locator BM stores (R201). -/
def State.decodeLoc (s : State) : List Nat := bmLocator s.field s.decodeFsyn

/-- The positions CHIEN stores (R204). -/
def State.decodePos (s : State) : List Nat := chienPositions s.field s.decodeLoc s.lenIn.toNat

/-- What the stages before CORRECT store to each buffer. -/
def State.decodeVals (s : State) : Buf → List Nat
  | .work => s.decodeWork
  | .era => s.decodeEra
  | .syn => s.decodeSyn
  | .fsyn => s.decodeFsyn
  | .loc => s.decodeLoc
  | .errpos => s.decodePos
  | _ => []

/-- How many entries of each buffer DECODE may store to. -/
def State.decodeCount (s : State) : Buf → Nat
  | .work => s.lenIn.toNat
  | .syn => s.cfg.nsym
  | .out => s.lenIn.toNat - s.cfg.nsym
  | b => (s.decodeVals b).length

/-- Buffer memory after stores to the buffers listed, the latest first. -/
def State.decodeMem (s : State) : List Buf → Memory
  | [] => s.mem
  | b :: bs => (s.decodeMem bs).store b (s.decodeVals b)

/-- What LOAD leaves of the state before. -/
def State.afterLoad (s : State) : State :=
  { s with mem := s.decodeMem [.era, .work], lenWork := s.lenIn, numEra := zext32 s.decodeEra.length }

/-- What LOAD and SYNDROME leave. -/
def State.afterSyndrome (s : State) : State :=
  { s with
    mem := s.decodeMem [.syn, .era, .work], lenWork := s.lenIn, numEra := zext32 s.decodeEra.length
    lenSyn := zext32 s.decodeSyn.length }

/-- What the stages up to FORNEY_SYN leave. -/
def State.afterForneySyn (s : State) : State :=
  { s with
    mem := s.decodeMem [.fsyn, .syn, .era, .work], lenWork := s.lenIn, numEra := zext32 s.decodeEra.length
    lenSyn := zext32 s.decodeSyn.length, lenFsyn := zext32 s.decodeFsyn.length }

/-- What the stages up to BM leave. -/
def State.afterBm (s : State) : State :=
  { s with
    mem := s.decodeMem [.loc, .fsyn, .syn, .era, .work], lenWork := s.lenIn, numEra := zext32 s.decodeEra.length
    lenSyn := zext32 s.decodeSyn.length, lenFsyn := zext32 s.decodeFsyn.length, lenLoc := zext32 s.decodeLoc.length }

/-- What the stages up to CHIEN leave. -/
def State.afterChien (s : State) : State :=
  { s with
    mem := s.decodeMem [.errpos, .loc, .fsyn, .syn, .era, .work], lenWork := s.lenIn
    numEra := zext32 s.decodeEra.length, lenSyn := zext32 s.decodeSyn.length, lenFsyn := zext32 s.decodeFsyn.length
    lenLoc := zext32 s.decodeLoc.length, numErrpos := zext32 s.decodePos.length }

/-- What CORRECT may change: memory alone (R222). -/
def State.setMem (s : State) (m : Memory) : State := { s with mem := m }

/-! ### Stores to some buffers only -/

/-- `m'` differs from `m` within the first `count b` entries of the buffers `b` of `bs` only. -/
def WritesOnly (count : Buf → Nat) (bs : List Buf) (m m' : Memory) : Prop :=
  ∀ a, (∀ b ∈ bs, ¬InEntries b (count b) a) → m'.read? a = m.read? a

section
variable {count : Buf → Nat} {bs : List Buf} {m m' : Memory}

theorem WritesOnly.refl : WritesOnly count [] m m := fun _ _ => rfl

theorem WritesOnly.store (h : WritesOnly count bs m m') {b : Buf} {vs : List Nat} (hl : vs.length ≤ count b) :
    WritesOnly count (b :: bs) m (m'.store b vs) := fun a ha =>
  (Memory.read?_store_outside m' hl (ha b (by simp))).trans (h a fun c hc => ha c (by simp [hc]))

theorem WritesOnly.mono {cs : List Buf} (h : WritesOnly count bs m m') (hs : bs ⊆ cs) : WritesOnly count cs m m' :=
  fun a ha => h a fun b hb => ha b (hs hb)

/-- A buffer that is not among those stored to keeps every byte, since no store leaves its buffer (R36, R60). -/
theorem WritesOnly.keeps (h : WritesOnly count bs m m') (hfit : ∀ b, count b ≤ b.depth) {c : Buf} (hc : c ∉ bs)
    {a : Nat} (ha : InEntries c c.depth a) : m'.read? a = m.read? a := by
  refine h a fun b hb hab => ?_
  have hbc : c ≠ b := fun e => hc (e ▸ hb)
  have := Buf.apart hbc
  have := hfit b
  unfold InEntries at ha hab
  omega

end

/-- What CORRECT leaves: memory alone differs, and WORK holds a codeword of the same length. -/
def Corrected (s u : State) : Prop :=
  ∃ m w, u = s.afterChien.setMem m ∧
    WritesOnly s.decodeCount [.work, .errpos, .loc, .fsyn, .syn, .era] s.mem m ∧
    w.length = s.lenIn.toNat ∧ (∀ v ∈ w, v < s.cfg.q) ∧ m.Holds .work w

/-! ### A DECODE whose LOAD ended well -/

/-- LOAD ends well in `s`, whose configuration is a successful CONFIGURE's. -/
structure Loads (s : State) : Prop where
  bounded : s.Bounded
  closed  : s.field.Closed s.cfg.q
  one_lt  : 1 < s.cfg.q
  q_le    : s.cfg.q ≤ 65536
  len_le  : s.lenIn.toNat ≤ s.cfg.n
  ready   : s.ReceivedReady s.lenIn.toNat
  era_le  : s.decodeEra.length ≤ s.cfg.nsym

section
variable {s : State} (hl : Loads s)

@[simp] theorem State.decodeWork_length (s : State) : s.decodeWork.length = s.lenIn.toNat := by
  simp [State.decodeWork]

@[simp] theorem State.decodeSyn_length (s : State) : s.decodeSyn.length = s.cfg.nsym := by simp [State.decodeSyn]

theorem State.decodeFsyn_length (s : State) : s.decodeFsyn.length = s.cfg.nsym - s.decodeEra.length := by
  simp [State.decodeFsyn, forney_length]

theorem State.decodeEra_lt (s : State) : ∀ p ∈ s.decodeEra, p < s.lenIn.toNat := fun _ hp => by
  simpa using (erasuresFrom_lt hp).2

include hl

theorem Loads.work_lt : ∀ v ∈ s.decodeWork, v < s.cfg.q := by
  refine List.forall_mem_map.2 (List.forall_mem_map.2 fun i hi => ?_)
  cases he : s.erasedAt i with
  | true => exact hl.closed.pos
  | false => exact hl.ready.2 i (List.mem_range.1 hi) he

theorem Loads.syn_lt : ∀ v ∈ s.decodeSyn, v < s.cfg.q := hl.closed.syndromes_lt hl.work_lt _

theorem Loads.fsyn_lt : ∀ v ∈ s.decodeFsyn, v < s.cfg.q := hl.closed.forney_lt hl.syn_lt _ _

theorem Loads.loc_lt : ∀ v ∈ s.decodeLoc, v < s.cfg.q := hl.closed.bmLocator_lt hl.one_lt _

theorem Loads.count_le (b : Buf) : s.decodeCount b ≤ b.depth := by
  obtain ⟨hn, hnsym, -, -⟩ := hl.bounded
  have hL := hl.len_le
  have hE := hl.era_le
  have hF := s.decodeFsyn_length
  have hloc : s.decodeLoc.length ≤ s.decodeFsyn.length + 1 := (bm_lengths ..).1
  have hpos : s.decodePos.length ≤ s.lenIn.toNat := chienPositions_length_le ..
  cases b <;> simp only [State.decodeCount, State.decodeVals, Buf.depth, List.length_nil] <;> omega

omit hl in
theorem State.decodeVals_length_le (s : State) (b : Buf) : (s.decodeVals b).length ≤ s.decodeCount b := by
  cases b <;> simp [State.decodeVals, State.decodeCount]

/-- Each of the buffers stored to holds what was stored, since no later store is to the same buffer. -/
theorem Loads.holds {bs : List Buf} (hbs : bs.Nodup) : ∀ b ∈ bs, (s.decodeMem bs).Holds b (s.decodeVals b) := by
  have hfit (c : Buf) : (s.decodeVals c).length ≤ c.depth := (s.decodeVals_length_le c).trans (hl.count_le c)
  induction bs with
  | nil => exact nofun
  | cons b bs ih =>
    obtain ⟨hb, hbs⟩ := List.nodup_cons.1 hbs
    exact List.forall_mem_cons.2 ⟨Memory.holds_store _ _ _, fun c hc =>
      (ih hbs c hc).store (fun e => hb (e ▸ hc)) (hfit c) (hfit b)⟩

omit hl in
theorem State.decodeMem_writes (s : State) (bs : List Buf) : WritesOnly s.decodeCount bs s.mem (s.decodeMem bs) := by
  induction bs with
  | nil => exact .refl
  | cons b bs ih => exact ih.store (s.decodeVals_length_le b)

/-! ### How the stages after LOAD end -/

/-- A length register holds the length of what was stored. -/
theorem Loads.zext32_vals (b : Buf) : (s.decodeVals b).length = (zext32 (s.decodeVals b).length).toNat := by
  have := (s.decodeVals_length_le b).trans (hl.count_le b)
  have hb : b.depth ≤ 131072 := by cases b <;> decide
  exact (zext32_toNat (by omega)).symm

theorem Loads.ends_syndrome : Ends (fun _ => False) (· = s.afterSyndrome) (syndromeBody s.afterLoad) := by
  have hW := hl.holds (bs := [.era, .work]) (by decide) .work (by decide)
  obtain ⟨hready, hsyms⟩ := hW.readBack (s := s.afterLoad) s.decodeWork_length hl.work_lt hl.q_le
  refine (ends_syndromeBody (C := fun _ => False) (fun h => absurd hl.len_le (not_le.2 h))
    fun h => h hready).mono fun u hu => ?_
  exact hu.trans (congrArg (fun w => s.afterLoad.putSyn (syndromes s.field s.cfg.nsym w)) hsyms)

theorem Loads.ends_synAllZero : Ends (fun _ => False) (· = allZero s.decodeSyn) (synAllZero s.afterSyndrome) := by
  have hS := hl.holds (bs := [.syn, .era, .work]) (by decide) .syn (by decide)
  obtain ⟨-, hsyms⟩ := hS.readBack (s := s.afterSyndrome) s.decodeSyn_length hl.syn_lt hl.q_le
  exact (Machine.ends_synAllZero s.afterSyndrome).mono fun z hz => hz.trans (congrArg allZero hsyms)

theorem Loads.ends_forneySyn : Ends (fun _ => False) (· = s.afterForneySyn) (forneySynBody s.afterSyndrome) := by
  have hst := hl.holds (bs := [.syn, .era, .work]) (by decide)
  have hn := hl.bounded.n_lt
  have hnsym := hl.bounded.nsym_le
  have hL := hl.len_le
  have hera_le := hl.era_le
  have hsyn_len := s.decodeSyn_length
  have hLS : s.decodeSyn.length = s.afterSyndrome.lenSyn.toNat := hl.zext32_vals .syn
  have hLE : s.decodeEra.length = s.afterSyndrome.numEra.toNat := hl.zext32_vals .era
  obtain ⟨hSready, hsyn⟩ := (hst .syn (by decide)).readBack (s := s.afterSyndrome) hLS hl.syn_lt hl.q_le
  obtain ⟨hEready, hera⟩ := (hst .era (by decide)).readBack (s := s.afterSyndrome) hLE s.decodeEra_lt (by omega)
  refine (ends_forneySynBody (C := fun _ => False) (fun h => absurd hL (not_le.2 h)) (by omega) (by omega)
    (fun h => h hSready) fun h => h hEready).mono fun u hu => ?_
  rw [hu, hsyn, hera]
  rfl

theorem Loads.ends_bm : Ends (· = .tooManyErrors) (· = s.afterBm) (bmBody s.afterForneySyn) := by
  have hF := hl.holds (bs := [.fsyn, .syn, .era, .work]) (by decide) .fsyn (by decide)
  have hLF : s.decodeFsyn.length = s.afterForneySyn.lenFsyn.toNat := hl.zext32_vals .fsyn
  obtain ⟨hready, hsyms⟩ := hF.readBack (s := s.afterForneySyn) hLF hl.fsyn_lt hl.q_le
  have hn := hl.bounded.n_lt
  have hnsym := hl.bounded.nsym_le
  have hlen := s.decodeFsyn_length
  refine (ends_bmBody (C := (· = .tooManyErrors)) (fun h => by omega) (fun h => absurd hready h)
    rfl).mono fun u hu => ?_
  rw [hu, hsyms]
  rfl

theorem Loads.ends_chien :
    Ends (fun c => c = .operandRange ∨ c = .errorLocationFailure) (· = s.afterChien) (chienBody s.afterBm) := by
  have hX := hl.holds (bs := [.loc, .fsyn, .syn, .era, .work]) (by decide) .loc (by decide)
  have hLX : s.decodeLoc.length = s.afterBm.lenLoc.toNat := hl.zext32_vals .loc
  obtain ⟨hready, hsyms⟩ := hX.readBack (s := s.afterBm) hLX hl.loc_lt hl.q_le
  refine (ends_chienBody (.inl rfl) (fun h => absurd hl.len_le (not_le.2 h)) (fun h => absurd hready h)
    (.inr rfl)).mono fun u hu => ?_
  rw [hu, hsyms]
  rfl

theorem Loads.ends_correct :
    Ends (fun c => c = .operandRange ∨ c = .divisionByZero) (Corrected s) (correctBody s.afterChien) := by
  have hst := hl.holds (bs := [.errpos, .loc, .fsyn, .syn, .era, .work]) (by decide)
  have hW := hst .work (by decide)
  have hLS : s.decodeSyn.length = s.afterChien.lenSyn.toNat := hl.zext32_vals .syn
  obtain ⟨hready, hwork⟩ := hW.readBack (s := s.afterChien) s.decodeWork_length hl.work_lt hl.q_le
  have hSready {L : Nat} (hL : L ≤ s.afterChien.lenSyn.toNat) : s.afterChien.SymsReady .syn L :=
    (hst .syn (by decide)).ready (hL.trans hLS.ge) hl.syn_lt hl.q_le
  refine (ends_correctBody (fun h => absurd hl.len_le (not_le.2 h)) (.inl rfl) (fun h => absurd hready h)
    (fun hE h => absurd (hSready hE) h) (.inr rfl)).mono fun u hu => ?_
  rcases hu with rfl | ⟨pos, vs, hvs, rfl⟩
  · exact ⟨_, _, rfl, (s.decodeMem_writes _).mono (by decide), s.decodeWork_length, hl.work_lt, hW⟩
  · have hlen : (applyErrata s.decodeWork pos vs).length = s.lenIn.toNat := by simp
    refine ⟨_, _, congrArg (fun w => s.afterChien.setMem (s.afterChien.mem.store .work (applyErrata w pos vs))) hwork,
      ((s.decodeMem_writes _).store (b := .work) hlen.le).mono (by decide), hlen, ?_, Memory.holds_store _ _ _⟩
    refine hl.closed.applyErrata_lt hl.work_lt pos fun v hv => ?_
    obtain ⟨x, y, rfl⟩ := hvs v hv
    exact hl.closed.gfQuot_lt x y

theorem Loads.ends_verify {u : State} (hu : Corrected s u) :
    Ends (· = .correctionVerificationFailure) (fun v => ∃ w, v = writeMessage u s.lenIn.toNat w) (verifyBody u) := by
  obtain ⟨m, w, rfl, -, hlen, hw, hm⟩ := hu
  have hready := Memory.Holds.ready (s := s.afterChien.setMem m) hm hlen.ge hw hl.q_le
  exact (ends_verifyBody (C := (· = .correctionVerificationFailure)) (fun h => absurd hl.len_le (not_le.2 h))
    (fun h => absurd hready h) rfl).mono fun v hv => ⟨_, hv⟩

end

/-! ### Where a DECODE ends -/

/-- The state a DECODE whose LOAD ended well completes on, and its code: the short-circuit, a failure of BM, CHIEN,
CORRECT or VERIFY on what the stages before left (R232), or VERIFY's message. -/
inductive DecodeEnd (s : State) : State → StatusCode → Prop
  | shortCircuit (hS : allZero s.decodeSyn = true) (w : List Nat) :
      DecodeEnd s (writeMessage s.afterSyndrome s.lenIn.toNat w) .ok
  | bm : DecodeEnd s s.afterForneySyn .tooManyErrors
  | chien {c : StatusCode} (hc : c = .operandRange ∨ c = .errorLocationFailure) : DecodeEnd s s.afterBm c
  | correct {c : StatusCode} (hc : c = .operandRange ∨ c = .divisionByZero) : DecodeEnd s s.afterChien c
  | verify {u : State} (hu : Corrected s u) : DecodeEnd s u .correctionVerificationFailure
  | ok (hS : allZero s.decodeSyn = false) {u : State} (hu : Corrected s u) (w : List Nat) :
      DecodeEnd s (writeMessage u s.lenIn.toNat w) .ok

theorem Loads.decodeErrata_next {s t : State} (hl : Loads s) (hS : allZero s.decodeSyn = false)
    (h : decodeErrata s.afterSyndrome = .next t) : ∃ u c, DecodeEnd s u c ∧ t = u.finish c := by
  rcases hl.ends_forneySyn.runStage_cases h with ⟨_, rfl, h⟩ | ⟨c, ⟨⟩, -⟩
  rcases hl.ends_bm.runStage_cases h with ⟨_, rfl, h⟩ | ⟨c, rfl, ht⟩
  case inr => exact ⟨_, _, .bm, ht⟩
  rcases hl.ends_chien.runStage_cases h with ⟨_, rfl, h⟩ | ⟨c, hc, ht⟩
  case inr => exact ⟨_, _, .chien hc, ht⟩
  rcases hl.ends_correct.runStage_cases h with ⟨u, hu, h⟩ | ⟨c, hc, ht⟩
  case inr => exact ⟨_, _, .correct hc, ht⟩
  rcases (hl.ends_verify hu).runStage_cases h with ⟨_, ⟨w, rfl⟩, h⟩ | ⟨c, rfl, ht⟩
  case inr => exact ⟨_, _, .verify hu, ht⟩
  cases h
  exact ⟨_, _, .ok hS hu w, rfl⟩

/-- DECODE's stages, in a configured state. -/
theorem decodeStages_next {s t : State} (hp : s.params.wellFormed = true) (hv : s.cfgValid = true)
    (h : decodeStages s = .next t) :
    (∃ c, t = s.finish c) ∨ (Loads s ∧ ∃ u c, DecodeEnd s u c ∧ t = u.finish c) := by
  rcases (ends_loadBody s).runStage_cases h with ⟨_, ⟨hL, hr, he, rfl⟩, h⟩ | ⟨c, -, ht⟩
  case inr => exact .inl ⟨c, ht⟩
  obtain ⟨hclosed, hone, hq⟩ := closed_of_cfgValid hp hv
  have hl : Loads s := ⟨.of_cfgValid hp hv, hclosed, hone, hq, hL, hr, he⟩
  refine .inr ⟨hl, ?_⟩
  rcases hl.ends_syndrome.runStage_cases h with ⟨_, rfl, h⟩ | ⟨c, ⟨⟩, -⟩
  have hz := hl.ends_synAllZero
  generalize synAllZero s.afterSyndrome = z at h hz
  cases hz with
  | fail hc => exact hc.elim
  | fault f => cases h
  | @ok z hz =>
    cases z with
    | false => exact hl.decodeErrata_next hz.symm h
    | true =>
      rcases (ends_shortCircuit (C := fun _ => False) _).runStage_cases h with ⟨_, ⟨w, rfl⟩, h⟩ | ⟨c, ⟨⟩, -⟩
      cases h
      exact ⟨_, _, .shortCircuit hz.symm w, rfl⟩

/-- Everything a DECODE that goes on can do, begun in a state that meets the invariant: it changes only STATUS, not
configured or failed in LOAD, or LOAD ended well and it ends at one of the places above. -/
theorem execDecode_next {s t : State} (hs : s.Inv) (h : execDecode s = .next t) :
    (∃ c, t = s.finish c) ∨ (Loads s ∧ ∃ u c, DecodeEnd s u c ∧ t = u.finish c) := by
  obtain ⟨hp, hcfg, -⟩ := hs
  cases hc : s.configured with
  | false =>
    rw [execDecode_of_unconfigured hc] at h
    cases h
    exact .inl ⟨_, rfl⟩
  | true =>
    have hconf : (do needConfigured s; pure s : Except Stop State) = .ok s := by simp [needConfigured, hc]
    rw [execDecode, runStage_of_ok hconf] at h
    exact decodeStages_next hp (State.cfgInv_of_configured hc ▸ hcfg) h

/-- Outside the entries of the seven buffers DECODE stores to. -/
theorem WritesOnly.outside {s : State} {bs : List Buf} {m : Memory} (h : WritesOnly s.decodeCount bs s.mem m)
    (hbs : bs ⊆ [.work, .era, .syn, .fsyn, .loc, .errpos, .out]) (a : Nat) (hwork : ¬InEntries .work s.lenIn.toNat a)
    (hera : ¬InEntries .era s.decodeEra.length a) (hsyn : ¬InEntries .syn s.cfg.nsym a)
    (hfsyn : ¬InEntries .fsyn s.decodeFsyn.length a) (hloc : ¬InEntries .loc s.decodeLoc.length a)
    (herrpos : ¬InEntries .errpos s.decodePos.length a) (hout : ¬InEntries .out (s.lenIn.toNat - s.cfg.nsym) a) :
    m.read? a = s.mem.read? a := by
  refine h a fun b hb => ?_
  have := hbs hb
  fin_cases this <;> assumption

theorem WritesOnly.keepsBuffer {s u : State} {bs : List Buf} (h : WritesOnly s.decodeCount bs s.mem u.mem)
    (hl : Loads s) (c : StatusCode) {b : Buf} (hb : b ∉ bs) : KeepsBuffer b s (u.finish c) :=
  fun _ => h.keeps hl.count_le hb

/-- The message's store to OUT (R223, R231). -/
theorem WritesOnly.writeMessage {s u : State} {bs : List Buf} (h : WritesOnly s.decodeCount bs s.mem u.mem)
    (hu : u.cfg = s.cfg) (w : List Nat) :
    WritesOnly s.decodeCount (.out :: bs) s.mem (writeMessage u s.lenIn.toNat w).mem :=
  h.store (by rw [hu]; exact List.length_take_le ..)

end Sys2Proof.Machine
end

section
/-! PROOFS. The statement of 30_encoding on DECODE's frame. -/

namespace Sys2Proof.Machine

/-- Settles O45: at each place where a DECODE can end, the buffers stored to by then, and no other, may differ. -/
theorem decodeFrame : Obligations.DecodeFrame := by
  intro s t hs h
  rcases execDecode_next hs h with ⟨c, rfl⟩ | ⟨hl, u, c, hu, rfl⟩
  · have keeps (b : Buf) : KeepsBuffer b s (s.finish c) := fun _ _ => rfl
    exact ⟨rfl, fun _ _ _ _ _ _ _ _ => rfl, fun _ => rfl, fun _ => ⟨rfl, rfl, keeps _, keeps _⟩,
      fun _ => ⟨rfl, keeps _⟩, fun _ => ⟨rfl, keeps _⟩, fun _ _ => ⟨rfl, rfl, rfl, keeps _, keeps _, keeps _⟩⟩
  · cases hu with
    | shortCircuit hS w =>
      have hw := (s.decodeMem_writes [.syn, .era, .work]).writeMessage (u := s.afterSyndrome) rfl w
      exact ⟨rfl, hw.outside (by decide), by simp, by simp, by simp, by simp, fun _ _ => ⟨rfl, rfl, rfl,
        hw.keepsBuffer hl _ (by decide), hw.keepsBuffer hl _ (by decide), hw.keepsBuffer hl _ (by decide)⟩⟩
    | bm =>
      have hw := s.decodeMem_writes [.fsyn, .syn, .era, .work]
      exact ⟨rfl, hw.outside (by decide), by simp,
        fun _ => ⟨rfl, rfl, hw.keepsBuffer hl _ (by decide), hw.keepsBuffer hl _ (by decide)⟩, by simp,
        fun _ => ⟨rfl, hw.keepsBuffer hl _ (by decide)⟩, by simp⟩
    | chien hc =>
      have hw := s.decodeMem_writes [.loc, .fsyn, .syn, .era, .work]
      refine ⟨rfl, hw.outside (by decide), ?_, ?_, fun _ => ⟨rfl, hw.keepsBuffer hl _ (by decide)⟩,
        fun _ => ⟨rfl, hw.keepsBuffer hl _ (by decide)⟩, ?_⟩ <;> rcases hc with rfl | rfl <;> simp
    | correct hc =>
      have hw := s.decodeMem_writes [.errpos, .loc, .fsyn, .syn, .era, .work]
      refine ⟨rfl, hw.outside (by decide), ?_, ?_, ?_, fun _ => ⟨rfl, hw.keepsBuffer hl _ (by decide)⟩, ?_⟩ <;>
        rcases hc with rfl | rfl <;> simp
    | verify hu =>
      obtain ⟨m, w, rfl, hw, -⟩ := hu
      exact ⟨rfl, hw.outside (by decide), by simp, by simp, by simp,
        fun _ => ⟨rfl, hw.keepsBuffer (u := s.afterChien.setMem m) hl _ (by decide)⟩, by simp⟩
    | ok hS hu w' =>
      obtain ⟨m, w, rfl, hw, -⟩ := hu
      have hw := hw.writeMessage (u := s.afterChien.setMem m) rfl w'
      refine ⟨?_, hw.outside (by decide), by simp, by simp, by simp, by simp, fun _ hz => ?_⟩
      · simp only [State.finish, writeMessage, State.setMem, State.afterChien]
      · have hS' : allZero s.decodeSyn = true := List.all_eq_true.2 fun v hv => beq_iff_eq.2 (hz v hv)
        exact absurd hS' (by simp [hS])

end Sys2Proof.Machine
end

section
/-! SUPPORT. The tables of R113 as iterates of the doubling step, when the powers are all nonzero symbols, and that
doubling is linear (40_field_engine R113). -/

namespace Sys2Proof.Machine

/-! ### EXP (40_field_engine R113) -/

theorem powersFrom_eq_iterate (q prim k x : Nat) : powersFrom q prim k x = List.iterate (doubled q prim) x k := by
  induction k generalizing x with
  | zero => rfl
  | succ k ih => rw [powersFrom, ih, List.iterate]

theorem mem_powersFrom_iff {q prim k x v : Nat} :
    v ∈ powersFrom q prim k x ↔ ∃ i < k, (doubled q prim)^[i] x = v := by
  simp only [powersFrom_eq_iterate, List.mem_iterate, eq_comm]

theorem expTable_getD_eq_iterate {n i : Nat} (q prim : Nat) (hi : i < n) :
    (expTable n q prim).getD i 0 = (doubled q prim)^[i] 1 := by
  rw [expTable_getD hi, powersFrom_eq_iterate, List.getD_eq_getElem _ _ (by simpa using hi), List.getElem_iterate]

theorem expTable_getD_zero {n : Nat} (q prim : Nat) (hn : 0 < n) : (expTable n q prim).getD 0 0 = 1 :=
  expTable_getD_eq_iterate q prim hn

/-- Each next power is the double of the last (R113). -/
theorem expTable_getD_succ {n i : Nat} (q prim : Nat) (hi : i + 1 < n) :
    (expTable n q prim).getD (i + 1) 0 = doubled q prim ((expTable n q prim).getD i 0) := by
  rw [expTable_getD_eq_iterate q prim hi, expTable_getD_eq_iterate q prim (Nat.lt_of_succ_lt hi),
    Function.iterate_succ_apply']

theorem expTable_getD_add (n q prim i : Nat) (hi : i < n) :
    (expTable n q prim).getD (i + n) 0 = (expTable n q prim).getD i 0 := by
  rw [expTable_getD hi]
  simp [expTable, List.getD, List.getElem?_append]

/-- EXP repeats with period n (R113). -/
theorem expTable_getD_mod {n i : Nat} (q prim : Nat) (hi : i < 2 * n) :
    (expTable n q prim).getD i 0 = (expTable n q prim).getD (i % n) 0 := by
  rcases lt_or_ge i n with h | h
  · rw [Nat.mod_eq_of_lt h]
  · obtain ⟨j, rfl⟩ := Nat.exists_eq_add_of_le' h
    rw [expTable_getD_add n q prim j (by omega), Nat.add_mod_right, Nat.mod_eq_of_lt (by omega)]

/-! ### LOG (40_field_engine R113) -/

theorem logTable_getD_of_last {n q prim x i : Nat} (h0 : x ≠ 0) (hx : x < q) (hi : i < n)
    (he : (expTable n q prim).getD i 0 = x) (hl : ∀ j < n, i < j → (expTable n q prim).getD j 0 ≠ x) :
    (logTable n q prim).getD x 0 = i := by
  rw [logTable, logFill_getD_last _ _ _ h0 (by simpa using hx) i (by simpa using hi) (expTable_getD hi ▸ he), zero_add]
  intro j hj hij
  rw [powersFrom_length] at hj
  exact expTable_getD hj ▸ hl j hj hij

theorem logTable_getD_of_absent {n q prim x : Nat} (h : ∀ i < n, (expTable n q prim).getD i 0 ≠ x) :
    (logTable n q prim).getD x 0 = 0 := by
  rw [logTable, logFill_getD_of_absent]
  · rw [zeros, List.getD, List.getElem?_getD_replicate_default_eq]
  · intro v hv
    obtain ⟨i, hi, rfl⟩ := mem_powersFrom_iff.1 hv
    exact expTable_getD_eq_iterate q prim hi ▸ h i hi

/-! ### Primitivity (40_field_engine R113) -/

/-- The n powers are distinct symbols exactly when they are all n nonzero symbols. -/
theorem primitive_iff_forall_mem {n q prim : Nat} (hq : q = n + 1) :
    Primitive n q prim ↔ ∀ x, 1 ≤ x → x < q → x ∈ powersFrom q prim n 1 := by
  have hlen : (powersFrom q prim n 1).length = (List.range' 1 n).length := by simp
  constructor
  · rintro ⟨hnd, hlt⟩ x h1 hx
    have hsub : powersFrom q prim n 1 ⊆ List.range' 1 n := fun v hv => by
      have := hlt v hv
      exact List.mem_range'_1.2 (by omega)
    exact ((hnd.subperm hsub).perm_of_length_le hlen.ge).mem_iff.2 (List.mem_range'_1.2 (by omega))
  · intro h
    have hsub : List.range' 1 n ⊆ powersFrom q prim n 1 := fun v hv => by
      have := List.mem_range'_1.1 hv
      exact h v this.1 (by omega)
    have hperm := ((List.nodup_range' (s := 1) (n := n)).subperm hsub).perm_of_length_le hlen.le
    refine ⟨hperm.nodup_iff.1 List.nodup_range', fun x hx => ?_⟩
    have := List.mem_range'_1.1 (hperm.mem_iff.2 hx)
    omega

theorem Primitive.exists_iterate {n q prim x : Nat} (h : Primitive n q prim) (hq : q = n + 1) (h0 : x ≠ 0)
    (hx : x < q) : ∃ i < n, (doubled q prim)^[i] 1 = x :=
  mem_powersFrom_iff.1 ((primitive_iff_forall_mem hq).1 h x (Nat.one_le_iff_ne_zero.2 h0) hx)

theorem Primitive.iterate_inj {n q prim i j : Nat} (h : Primitive n q prim) (hi : i < n) (hj : j < n)
    (he : (doubled q prim)^[i] 1 = (doubled q prim)^[j] 1) : i = j := by
  have hnd := h.1
  rw [powersFrom_eq_iterate, ← List.range_map_iterate] at hnd
  exact List.inj_on_of_nodup_map hnd (List.mem_range.2 hi) (List.mem_range.2 hj) he

theorem Primitive.log_exp {n q prim i : Nat} (h : Primitive n q prim) (hi : i < n) :
    (logTable n q prim).getD ((expTable n q prim).getD i 0) 0 = i := by
  have he := expTable_getD_eq_iterate q prim hi
  have hs := h.2 _ (mem_powersFrom_iff.2 ⟨i, hi, rfl⟩)
  refine logTable_getD_of_last (by omega) (by omega) hi rfl fun j hj hij hji => ?_
  rw [he, expTable_getD_eq_iterate q prim hj] at hji
  exact absurd (h.iterate_inj hj hi hji) hij.ne'

theorem Primitive.exp_log {n q prim x : Nat} (h : Primitive n q prim) (hq : q = n + 1) (h0 : x ≠ 0) (hx : x < q) :
    (expTable n q prim).getD ((logTable n q prim).getD x 0) 0 = x := by
  obtain ⟨i, hi, rfl⟩ := h.exists_iterate hq h0 hx
  rw [← expTable_getD_eq_iterate q prim hi, h.log_exp hi]

/-- The contract of the tables holds under primitive constants only (R113). -/
theorem primitive_of_exp_log {n q prim : Nat} (hn : 0 < n) (hq : q = n + 1)
    (h : ∀ x, 1 ≤ x → x < q → (expTable n q prim).getD ((logTable n q prim).getD x 0) 0 = x) : Primitive n q prim :=
  (primitive_iff_forall_mem hq).2 fun x h1 hx =>
    have hl := logTable_lt hn q prim x
    mem_powersFrom_iff.2 ⟨_, hl, by rw [← expTable_getD_eq_iterate q prim hl, h x h1 hx]⟩

/-! ### Doubling is linear -/

/-- Doubling (R113) adds the constant where it carries into the bit of weight q. -/
theorem doubled_eq_xor (m prim x : Nat) :
    doubled (2 ^ m) prim x = (2 * x) ^^^ bif (2 * x).testBit m then prim else 0 := by
  unfold doubled
  cases h : (2 * x).testBit m <;> simp [Nat.and_two_pow, h]

/-- Below 2^(m - 1) there is nothing to reduce. -/
theorem doubled_of_lt {m x : Nat} (prim : Nat) (hx : 2 * x < 2 ^ m) : doubled (2 ^ m) prim x = 2 * x := by
  rw [doubled_eq_xor, Nat.testBit_lt_two_pow hx, cond_false, Nat.xor_zero]

theorem doubled_xor (m prim x y : Nat) :
    doubled (2 ^ m) prim (x ^^^ y) = doubled (2 ^ m) prim x ^^^ doubled (2 ^ m) prim y := by
  have h2 : 2 * (x ^^^ y) = (2 * x) ^^^ (2 * y) := by
    simpa [Nat.shiftLeft_eq, Nat.mul_comm] using Nat.shiftLeft_xor_distrib (a := x) (b := y) (i := 1)
  rw [doubled_eq_xor, doubled_eq_xor, doubled_eq_xor, h2, Nat.testBit_xor]
  cases (2 * x).testBit m <;> cases (2 * y).testBit m <;> simp [Nat.xor_comm, Nat.xor_left_comm]

theorem doubled_iterate_xor (m prim i x y : Nat) :
    (doubled (2 ^ m) prim)^[i] (x ^^^ y) = (doubled (2 ^ m) prim)^[i] x ^^^ (doubled (2 ^ m) prim)^[i] y := by
  induction i generalizing x y with
  | zero => rfl
  | succ i ih => rw [Function.iterate_succ_apply, doubled_xor, ih]; rfl

theorem doubled_iterate_zero (q prim i : Nat) : (doubled q prim)^[i] 0 = 0 :=
  Function.iterate_fixed (by simp [doubled]) i

/-- Doubling is one-to-one under an odd constant: only 0 doubles to 0. -/
theorem doubled_injective (m : Nat) {prim : Nat} (hodd : prim % 2 = 1) : Function.Injective (doubled (2 ^ m) prim) := by
  intro x y h
  have h0 : doubled (2 ^ m) prim (x ^^^ y) = 0 := by rw [doubled_xor, h, Nat.xor_self]
  rw [doubled_eq_xor, Nat.xor_eq_zero_iff] at h0
  cases hb : (2 * (x ^^^ y)).testBit m with
  | true => rw [hb, cond_true] at h0; omega
  | false => rw [hb, cond_false] at h0; exact Nat.xor_eq_zero_iff.1 (by omega)

end Sys2Proof.Machine
end

section
/-! SUPPORT. The field of a primitive constant: multiplying by a nonzero symbol is repeated doubling, and the field laws
follow from that (40_field_engine R114, R115, R121). -/

namespace Sys2Proof.Machine

/-! ### The field of a primitive constant (40_field_engine R113) -/

/-- The field CONFIGURE builds for q = 2^m and a constant (R112, R113). -/
def constField (m prim : Nat) : Field where
  n := 2 ^ m - 1
  exp := expTable (2 ^ m - 1) (2 ^ m) prim
  log := logTable (2 ^ m - 1) (2 ^ m) prim

/-- A primitive constant of degree m (R8, R113). -/
structure PrimitiveConstant (m prim : Nat) : Prop where
  two_le : 2 ≤ m
  le : 2 ^ m ≤ prim
  lt : prim < 2 ^ (m + 1)
  primitive : Primitive (2 ^ m - 1) (2 ^ m) prim

theorem two_pow_eq_pred_add_one (m : Nat) : 2 ^ m = (2 ^ m - 1) + 1 := (Nat.sub_add_cancel Nat.one_le_two_pow).symm

theorem three_le_two_pow_sub_one {m : Nat} (hm : 2 ≤ m) : 3 ≤ 2 ^ m - 1 := by
  have : 2 ^ 2 ≤ 2 ^ m := Nat.pow_le_pow_right (by decide) hm
  omega

theorem constField_logAt_lt {m : Nat} (hm : 2 ≤ m) (prim x : Nat) : (constField m prim).logAt x < 2 ^ m - 1 :=
  logTable_lt (by have := three_le_two_pow_sub_one hm; omega) _ _ x

/-- The latched field is that of the latched constant (R30, R112). -/
theorem field_of_cfgValid {s : State} (h : s.cfgValid = true) :
    2 ≤ s.cfg.m ∧ s.cfg.m ≤ 16 ∧ s.cfg.q = 2 ^ s.cfg.m ∧ s.cfg.n = 2 ^ s.cfg.m - 1 ∧
      s.field = constField s.cfg.m s.cfg.prim := by
  obtain ⟨hq, hqn, -, -, hm, -, hexp, hlog⟩ := s.cfgValid_iff.1 h
  obtain ⟨m, h2, h16, hqm⟩ := mem_qSet_iff.1 hq
  have hmm : s.cfg.m = m := by rw [hm, hqm, Nat.log2_two_pow]
  have hn : s.cfg.n = 2 ^ m - 1 := by omega
  rw [hmm]
  exact ⟨h2, h16, hqm, hn, by rw [State.field, constField, hexp, hlog, hqm, hn]⟩

/-! ### Products and quotients (40_field_engine R114, R115) -/

theorem gfMul_comm (f : Field) (x y : Nat) : gfMul f x y = gfMul f y x := by
  simp only [gfMul, or_comm, Nat.add_comm]

@[simp] theorem gfMul_zero (f : Field) (x : Nat) : gfMul f x 0 = 0 := if_pos (.inr rfl)

@[simp] theorem zero_gfMul (f : Field) (x : Nat) : gfMul f 0 x = 0 := if_pos (.inl rfl)

theorem gfDiv_zero (f : Field) (x : Nat) : gfDiv f x 0 = .error (.fail .divisionByZero) := rfl

theorem gfDiv_of_ne_zero (f : Field) (x : Nat) {y : Nat} (hy : y ≠ 0) : gfDiv f x y = .ok (gfQuot f x y) := by
  simp [gfDiv, hy]

/-! ### The field under a primitive constant -/

namespace PrimitiveConstant

section
variable {m prim : Nat} (h : PrimitiveConstant m prim)
include h

theorem three_le_order : 3 ≤ 2 ^ m - 1 := three_le_two_pow_sub_one h.two_le

/-- An even constant reaches no odd symbol but 1, so not 3. -/
theorem odd : prim % 2 = 1 := by
  have h3 := h.three_le_order
  obtain ⟨i, -, hi⟩ := h.primitive.exists_iterate (two_pow_eq_pred_add_one m) (x := 3) (by decide) (by omega)
  by_contra heven
  have hd (x : Nat) : doubled (2 ^ m) prim x % 2 = 0 := by
    rw [doubled_eq_xor, Nat.xor_mod_two_eq]
    cases (2 * x).testBit m <;> simp; omega
  cases i with
  | zero => simp at hi
  | succ i =>
    have := hd ((doubled (2 ^ m) prim)^[i] 1)
    rw [← Function.iterate_succ_apply' (doubled (2 ^ m) prim), hi] at this
    omega

theorem doubled_iterate_injective (i : Nat) : Function.Injective (doubled (2 ^ m) prim)^[i] :=
  (doubled_injective m h.odd).iterate i

theorem doubled_iterate_lt {x : Nat} (hx : x < 2 ^ m) (i : Nat) : (doubled (2 ^ m) prim)^[i] x < 2 ^ m :=
  powersFrom_lt h.le h.lt hx (mem_powersFrom_iff.2 ⟨i, i.lt_succ_self, rfl⟩)

/-- The n-th power of alpha is 1 again: it is some power below n, and stepping back gives no other. -/
theorem doubled_iterate_order : (doubled (2 ^ m) prim)^[2 ^ m - 1] 1 = 1 := by
  have h3 := h.three_le_order
  have h0 : (doubled (2 ^ m) prim)^[2 ^ m - 1] 1 ≠ 0 := fun he =>
    Nat.one_ne_zero (h.doubled_iterate_injective _ (he.trans (doubled_iterate_zero ..).symm))
  obtain ⟨i, hi, he⟩ := h.primitive.exists_iterate (two_pow_eq_pred_add_one m) h0 (h.doubled_iterate_lt (by omega) _)
  rw [show 2 ^ m - 1 = i + (2 ^ m - 1 - i) by omega, Function.iterate_add_apply] at he
  have hback : (doubled (2 ^ m) prim)^[0] 1 = (doubled (2 ^ m) prim)^[2 ^ m - 1 - i] 1 :=
    h.doubled_iterate_injective i he
  rcases Nat.eq_zero_or_pos i with rfl | hpos
  · exact hback.symm
  · have := h.primitive.iterate_inj (by omega) (by omega) hback
    omega

/-- The powers of alpha have period n (R121). -/
theorem doubled_iterate_add_order (i : Nat) :
    (doubled (2 ^ m) prim)^[i + (2 ^ m - 1)] 1 = (doubled (2 ^ m) prim)^[i] 1 := by
  rw [Function.iterate_add_apply, h.doubled_iterate_order]

/-! #### The tables -/

theorem expAt_eq_iterate {i : Nat} (hi : i < 2 * (2 ^ m - 1)) :
    (constField m prim).expAt i = (doubled (2 ^ m) prim)^[i] 1 := by
  rcases lt_or_ge i (2 ^ m - 1) with hlt | hge
  · exact expTable_getD_eq_iterate _ _ hlt
  · obtain ⟨j, rfl⟩ := Nat.exists_eq_add_of_le' hge
    have hj : j < 2 ^ m - 1 := by omega
    rw [h.doubled_iterate_add_order, ← expTable_getD_eq_iterate _ _ hj]
    exact expTable_getD_add _ _ _ _ hj

theorem logAt_lt (x : Nat) : (constField m prim).logAt x < 2 ^ m - 1 := constField_logAt_lt h.two_le prim x

theorem iterate_logAt {x : Nat} (h0 : x ≠ 0) (hx : x < 2 ^ m) :
    (doubled (2 ^ m) prim)^[(constField m prim).logAt x] 1 = x :=
  (expTable_getD_eq_iterate _ _ (h.logAt_lt x)).symm.trans (h.primitive.exp_log (two_pow_eq_pred_add_one m) h0 hx)

theorem logAt_one : (constField m prim).logAt 1 = 0 :=
  h.primitive.iterate_inj (h.logAt_lt 1) (by have := h.three_le_order; omega)
    (h.iterate_logAt one_ne_zero (by have := h.three_le_order; omega))

theorem closed : (constField m prim).Closed (2 ^ m) :=
  ⟨expTable_lt h.le h.lt (Nat.one_le_of_lt h.two_le), fun hx hy => Nat.xor_lt_two_pow hx hy⟩

/-! #### The field laws (40_field_engine R121) -/

/-- Multiplying by a nonzero symbol is doubling as many times as its logarithm says. -/
theorem gfMul_eq_iterate {x y : Nat} (hx : x ≠ 0) (hy : y < 2 ^ m) :
    gfMul (constField m prim) x y = (doubled (2 ^ m) prim)^[(constField m prim).logAt x] y := by
  rcases eq_or_ne y 0 with rfl | hy0
  · rw [gfMul_zero, doubled_iterate_zero]
  · have hlx := h.logAt_lt x
    have hly := h.logAt_lt y
    rw [gfMul, if_neg (by simp [hx, hy0]), h.expAt_eq_iterate (by omega), Function.iterate_add_apply,
      h.iterate_logAt hy0 hy]

theorem gfMul_one {x : Nat} (hx : x < 2 ^ m) : gfMul (constField m prim) x 1 = x := by
  rw [gfMul_comm, h.gfMul_eq_iterate one_ne_zero hx, h.logAt_one]; rfl

theorem gfMul_assoc {x y z : Nat} (hx : x < 2 ^ m) (hy : y < 2 ^ m) (hz : z < 2 ^ m) :
    gfMul (constField m prim) (gfMul (constField m prim) x y) z =
      gfMul (constField m prim) x (gfMul (constField m prim) y z) := by
  rcases eq_or_ne x 0 with rfl | hx0
  · simp
  rcases eq_or_ne z 0 with rfl | hz0
  · simp
  have hlt := h.closed.gfMul_lt
  rw [gfMul_comm _ _ z, gfMul_comm _ y z, h.gfMul_eq_iterate hz0 (hlt x y), h.gfMul_eq_iterate hx0 (hlt z y),
    h.gfMul_eq_iterate hx0 hy, h.gfMul_eq_iterate hz0 hy]
  exact (Function.Commute.iterate_iterate_self (doubled (2 ^ m) prim) _ _).eq y

theorem gfMul_xor {x y z : Nat} (hy : y < 2 ^ m) (hz : z < 2 ^ m) :
    gfMul (constField m prim) x (y ^^^ z) = gfMul (constField m prim) x y ^^^ gfMul (constField m prim) x z := by
  rcases eq_or_ne x 0 with rfl | hx0
  · simp
  · rw [h.gfMul_eq_iterate hx0 (h.closed.xor_lt hy hz), h.gfMul_eq_iterate hx0 hy, h.gfMul_eq_iterate hx0 hz,
      doubled_iterate_xor]

theorem gfMul_left_cancel {x y z : Nat} (hx : x ≠ 0) (hy : y < 2 ^ m) (hz : z < 2 ^ m)
    (he : gfMul (constField m prim) x y = gfMul (constField m prim) x z) : y = z := by
  rw [h.gfMul_eq_iterate hx hy, h.gfMul_eq_iterate hx hz] at he
  exact h.doubled_iterate_injective _ he

/-- The quotient times the divisor (R115). -/
theorem gfMul_gfQuot {x y : Nat} (hx : x < 2 ^ m) (hy : y ≠ 0) :
    gfMul (constField m prim) y (gfQuot (constField m prim) x y) = x := by
  rcases eq_or_ne x 0 with rfl | hx0
  · simp [gfQuot]
  · have hlx := h.logAt_lt x
    have hly := h.logAt_lt y
    have hn : (constField m prim).n = 2 ^ m - 1 := rfl
    rw [h.gfMul_eq_iterate hy (h.closed.gfQuot_lt x y), gfQuot, if_neg hx0, hn, h.expAt_eq_iterate (by omega),
      ← Function.iterate_add_apply, Nat.add_sub_of_le (by omega), h.doubled_iterate_add_order, h.iterate_logAt hx0 hx]

/-- The product over a factor (R115). -/
theorem gfQuot_gfMul {x y : Nat} (hx : x < 2 ^ m) (hy : y ≠ 0) :
    gfQuot (constField m prim) (gfMul (constField m prim) x y) y = x := by
  have hmul := h.closed.gfMul_lt x y
  refine h.gfMul_left_cancel hy (h.closed.gfQuot_lt ..) hx ?_
  rw [h.gfMul_gfQuot hmul hy, gfMul_comm]

end

end PrimitiveConstant

end Sys2Proof.Machine
end

section
/-! SUPPORT. Where the operand reads stop (40_field_engine R111), and how CONFIGURE's pseudocode ends (R112). -/

namespace Sys2Proof.Machine

/-! ### A command behind the NOT_CONFIGURED check -/

section
variable {s : State} {body : State → Except Stop State} (hc : s.configured = true)
include hc

theorem configuredCommand_of_ok {t : State} (h : body s = .ok t) :
    configuredCommand s body = .next (t.finish .ok) :=
  (configuredCommand_of_configured hc body).trans (command_of_ok h)

theorem configuredCommand_of_fail {c : StatusCode} (h : body s = .error (.fail c)) :
    configuredCommand s body = .next (s.finish c) :=
  (configuredCommand_of_configured hc body).trans (command_of_fail h)

end

/-! ### Scalar operands (40_field_engine R111) -/

theorem scalarSym_of_lt {s : State} {r : Word} (h : r.toNat < s.cfg.q) : scalarSym s r = .ok r.toNat := by
  simp [scalarSym, h]

theorem scalarSym_of_ge {s : State} {r : Word} (h : s.cfg.q ≤ r.toNat) :
    scalarSym s r = .error (.fail .invalidSymbol) := by
  simp [scalarSym, h]

section
variable {s : State} (k : Nat → Nat → Except Stop State)

/-- What GF_MUL and GF_DIV begin with, on two symbols. -/
theorem scalarSyms_of_lt (ha : s.opA.toNat < s.cfg.q) (hb : s.opB.toNat < s.cfg.q) :
    (do let x ← scalarSym s s.opA; let y ← scalarSym s s.opB; k x y) = k s.opA.toNat s.opB.toNat := by
  rw [scalarSym_of_lt ha, ok_bind, scalarSym_of_lt hb, ok_bind]

/-- What GF_MUL and GF_DIV begin with, where an operand is no symbol. -/
theorem scalarSyms_of_ge (h : s.cfg.q ≤ s.opA.toNat ∨ s.cfg.q ≤ s.opB.toNat) :
    (do let x ← scalarSym s s.opA; let y ← scalarSym s s.opB; k x y) = .error (.fail .invalidSymbol) := by
  rcases lt_or_ge s.opA.toNat s.cfg.q with ha | ha
  · rw [scalarSym_of_lt ha, ok_bind, scalarSym_of_ge (h.resolve_left ha.not_ge), error_bind]
  · rw [scalarSym_of_ge ha, error_bind]

end

/-! ### Operands in buffers (40_field_engine R111) -/

/-- The read of an entry below a limit, which `readSym` and `readPos` are. -/
def readBelow (s : State) (limit : Nat) (c : StatusCode) (b : Buf) (i : Nat) : Except Stop Nat := do
  let w ← readEntry s b i
  failIf (limit ≤ symField w) c
  pure (symField w)

theorem readSyms_eq_readBelow (s : State) (b : Buf) (L : Nat) :
    readSyms s b L = readRange (readBelow s s.cfg.q .invalidSymbol b) 0 L := rfl

theorem readPositions_eq_readBelow (s : State) (limit : Nat) (b : Buf) (L : Nat) :
    readPositions s limit b L = readRange (readBelow s limit .operandRange b) 0 L := rfl

section
variable {s : State} {b : Buf} {L limit i : Nat} (c : StatusCode)

theorem readEntry_of_unwritten (h : s.mem.entry? b i = none) :
    readEntry s b i = .error (.fault (.unwrittenRead b i)) := by
  simp [readEntry, h]

theorem readBelow_of_written (h : (s.mem.entry? b i).isSome = true) :
    readBelow s limit c b i = if limit ≤ s.symAt b i then .error (.fail c) else .ok (s.symAt b i) := by
  obtain ⟨w, hw⟩ := Option.isSome_iff_exists.1 h
  simp [readBelow, readEntry, State.symAt, hw]

/-- A range read ends at the first entry that cannot be read, with its error (R252). -/
theorem readRange_readBelow_of_first {e : Stop} (hi : i < L) (hr : s.PositionsReady b i limit)
    (he : readBelow s limit c b i = .error e) : readRange (readBelow s limit c b) 0 L = .error e := by
  refine readRange_of_first_error (g := s.symAt b) hi (fun l hl => ?_) (by rwa [Nat.zero_add])
  rw [Nat.zero_add, readBelow_of_written c (hr.1 l hl), if_neg (hr.2 l hl).not_ge]

theorem readRange_readBelow_of_unwritten (h : s.PosUnwrittenAt b L limit i) :
    readRange (readBelow s limit c b) 0 L = .error (.fault (.unwrittenRead b i)) := by
  obtain ⟨hi, hr, hn⟩ := h
  exact readRange_readBelow_of_first c hi hr (by rw [readBelow, readEntry_of_unwritten hn, error_bind])

theorem readRange_readBelow_of_bad (h : s.PosBadAt b L limit i) :
    readRange (readBelow s limit c b) 0 L = .error (.fail c) := by
  obtain ⟨hi, hr, hw, hv⟩ := h
  exact readRange_readBelow_of_first c hi hr (by rw [readBelow_of_written c hw, if_pos hv])

end

/-! ### CONFIGURE (40_field_engine R112) -/

theorem configureBody_of_valid {s : State} {m : Nat} (h2 : 2 ≤ m) (h16 : m ≤ 16) (hq : s.cfgN.toNat + 1 = 2 ^ m)
    (hk : s.cfgK.toNat ≤ s.cfgN.toNat) :
    configureBody s = .ok { s with
      cfg := { n := s.cfgN.toNat, k := s.cfgK.toNat, q := 2 ^ m, m := m, nsym := s.cfgN.toNat - s.cfgK.toNat
               prim := primOf s.params m }
      exp := expTable s.cfgN.toNat (2 ^ m) (primOf s.params m)
      log := logTable s.cfgN.toNat (2 ^ m) (primOf s.params m)
      configured := true } := by
  have hmem : 2 ^ m ∈ qSet := mem_qSet_iff.2 ⟨m, h2, h16, rfl⟩
  simp only [configureBody, failIf_bind, hq, Nat.log2_two_pow, hmem, not_true_eq_false, if_false, hk.not_gt,
    pure_eq_ok]

theorem configureBody_of_invalid {s : State} (h : s.cfgN.toNat + 1 ∉ qSet ∨ s.cfgN.toNat < s.cfgK.toNat) :
    configureBody s = .error (.fail .configurationError) := by
  simp only [configureBody, failIf_bind]
  by_cases hq : s.cfgN.toNat + 1 ∉ qSet
  · rw [if_pos hq]
  · rw [if_neg hq, if_pos (h.resolve_left hq)]

end Sys2Proof.Machine
end

section
/-! PROOFS. The statements of 40_field_engine. -/

namespace Sys2Proof.Machine

/-- Settles O6: NOP's pseudocode is empty, and STATUS is evaluated after it. -/
theorem nopCompletes : Obligations.NopCompletes :=
  ⟨fun _ => command_of_ok (pure_eq_ok _), _, rfl, rfl⟩

/-- Settles O7: the two checks pass on a power in Q_SET and k at most n, and one of them fails otherwise. -/
theorem configureLatchesOrFails : Obligations.ConfigureLatchesOrFails := by
  refine fun s => ⟨fun m h2 h16 hq hk => command_of_ok (configureBody_of_valid h2 h16 hq hk), fun h => ?_⟩
  refine command_of_fail (configureBody_of_invalid (h.imp_left fun hm hq => ?_))
  obtain ⟨m, h2, h16, hqm⟩ := mem_qSet_iff.1 hq
  exact hm m h2 h16 hqm

/-- The constants of R9 for GF(4) to GF(64). -/
theorem primitive_default : Primitive 3 4 0x7 ∧ Primitive 7 8 0xB ∧ Primitive 15 16 0x13 ∧ Primitive 31 32 0x25 ∧
    Primitive 63 64 0x43 := by decide +kernel

/-- Settles O8: EXP is the iterated doubling of 1, and n powers are distinct symbols exactly when they are all of
them. -/
theorem tableContract : Obligations.TableContract := by
  refine ⟨fun m prim hm => ?_, primitive_default⟩
  have hq := two_pow_eq_pred_add_one m
  have h3 := three_le_two_pow_sub_one hm
  have hn : 1 < 2 ^ m - 1 := by omega
  have hn0 : 0 < 2 ^ m - 1 := by omega
  have hE0 := expTable_getD_zero (2 ^ m) prim hn0
  refine ⟨expTable_length .., logTable_length .., hE0, ?_, fun i hi => expTable_getD_succ _ _ hi, fun i hi hi2 => ?_,
    logTable_getD_zero .., fun x h1 hx => ⟨fun i hi he hl => ?_, logTable_getD_of_absent⟩,
    ⟨primitive_of_exp_log hn0 hq, fun h x h1 hx => h.exp_log hq (Nat.ne_zero_of_lt h1) hx⟩,
    fun h => ⟨?_, fun x _ => logTable_lt hn0 _ _ x, fun i => h.log_exp⟩⟩
  · refine (expTable_getD_succ _ _ hn).trans ?_
    rw [hE0, doubled_of_lt _ (by omega)]
  · obtain ⟨j, rfl⟩ := Nat.exists_eq_add_of_le' hi
    dsimp only
    rw [expTable_getD_add _ _ _ j (by omega), Nat.add_sub_cancel]
  · exact logTable_getD_of_last (Nat.ne_zero_of_lt h1) hx hi he hl
  · have := h.log_exp hn0
    rwa [hE0] at this

/-- Settles O10: to multiply by a nonzero symbol is to double as often as its logarithm says, which is linear and
one-to-one. -/
theorem fieldLaws : Obligations.FieldLaws := by
  intro m prim h2 _ hlo hhi hp
  have h : PrimitiveConstant m prim := ⟨h2, hlo, hhi, hp⟩
  have h1 : 1 < 2 ^ m := Nat.one_lt_two_pow (by omega)
  have hquot := h.closed.gfQuot_lt
  refine ⟨fun x y _ _ => ⟨h.closed.gfMul_lt x y, gfMul_comm _ x y⟩, fun x y z => h.gfMul_assoc,
    fun x hx => ⟨h.gfMul_one hx, gfMul_zero _ x⟩, fun x y z _ => h.gfMul_xor, fun x y hx hy hy0 => ⟨?_, ?_⟩,
    fun y hy hy0 => ?_, Nat.xor_self, fun i hi => expTable_getD_mod _ _ hi, fun i => hp.log_exp⟩
  · exact (gfDiv_of_ne_zero _ _ hy0).trans (congrArg _ (h.gfQuot_gfMul hx hy0))
  · exact ⟨_, gfDiv_of_ne_zero _ _ hy0, hquot .., (gfMul_comm ..).trans (h.gfMul_gfQuot hx hy0)⟩
  · have hinv := h.gfMul_gfQuot h1 hy0
    exact ⟨_, gfDiv_of_ne_zero _ _ hy0, hquot .., hinv,
      fun u hu he => h.gfMul_left_cancel hy0 hu (hquot ..) (he.trans hinv.symm)⟩

/-- Settles O11: the two operand checks, then the product. -/
theorem gfMulResult : Obligations.GfMulResult := by
  refine ⟨fun s hc => ⟨fun h => ?_, fun ha hb => ?_⟩, fun _ _ _ => rfl⟩
  · exact configuredCommand_of_fail hc (scalarSyms_of_ge _ h)
  · exact configuredCommand_of_ok hc (scalarSyms_of_lt _ ha hb)

/-- Settles O12: the two operand checks, the zero divisor, then the quotient. -/
theorem gfDivResult : Obligations.GfDivResult := by
  refine ⟨fun s hc => ⟨fun h => ?_, fun ha hb h0 => ?_, fun ha hb h0 => ?_⟩,
    fun f x y => ⟨gfDiv_zero f x, gfDiv_of_ne_zero f x⟩⟩
  · exact configuredCommand_of_fail hc (scalarSyms_of_ge _ h)
  · refine configuredCommand_of_fail hc ((scalarSyms_of_lt _ ha hb).trans ?_)
    rw [h0, gfDiv_zero, error_bind]
  · refine configuredCommand_of_ok hc ((scalarSyms_of_lt _ ha hb).trans ?_)
    rw [gfDiv_of_ne_zero _ _ h0, ok_bind, pure_eq_ok]
    rfl

/-- Settles O13: the range check, then the table read. -/
theorem gfExpResult : Obligations.GfExpResult := by
  refine fun s hc => ⟨fun h => ?_, fun h => ?_⟩
  · exact configuredCommand_of_fail hc (by rw [gfExpBody, failIf_bind, if_pos h])
  · exact configuredCommand_of_ok hc (by rw [gfExpBody, failIf_bind, if_neg h.not_ge]; rfl)

/-- Settles O14: the two checks, then the table read; every LOG entry is an index below n (R113). -/
theorem gfLogResult : Obligations.GfLogResult := by
  intro s hc
  have hok (h : s.opA.toNat < s.cfg.q) (h0 : s.opA.toNat ≠ 0) :
      exec .gfLog s = .next (({ s with result := zext32 (s.field.logAt s.opA.toNat) } : State).finish .ok) :=
    configuredCommand_of_ok hc (by rw [gfLogBody, failIf_bind, if_neg h.not_ge, failIf_bind, if_neg h0]; rfl)
  refine ⟨fun h => ?_, fun h h0 => ?_, hok, fun ⟨_, hcfg, _⟩ _ h h0 => ⟨_, hok h h0, ?_⟩⟩
  · exact configuredCommand_of_fail hc (by rw [gfLogBody, failIf_bind, if_pos h])
  · exact configuredCommand_of_fail hc (by rw [gfLogBody, failIf_bind, if_neg h.not_ge, failIf_bind, if_pos h0])
  · obtain ⟨h2, h16, -, hn, hf⟩ := field_of_cfgValid (State.cfgInv_of_configured hc ▸ hcfg)
    have hle : 2 ^ s.cfg.m ≤ 2 ^ 16 := Nat.pow_le_pow_right (by decide) h16
    have hlog := constField_logAt_lt h2 s.cfg.prim s.opA.toNat
    rw [State.finish_result, hf, hn, zext32_toNat (by omega)]
    exact hlog

/-- Settles O15: a range read gives what its entries hold where all are ready, and ends at the first that is not. -/
theorem operandReads : Obligations.OperandReads := fun s b L limit i r =>
  have hsyms := readSyms_eq_readBelow s b L
  have hpos := readPositions_eq_readBelow s limit b L
  ⟨scalarSym_of_ge, scalarSym_of_lt,
    readSyms_of_ready, fun hu => hsyms.trans (readRange_readBelow_of_unwritten _ hu),
    fun hb => hsyms.trans (readRange_readBelow_of_bad _ hb),
    readPositions_of_ready, fun hu => hpos.trans (readRange_readBelow_of_unwritten _ hu),
    fun hb => hpos.trans (readRange_readBelow_of_bad _ hb),
    fun w hw => by simp [readIn, readEntry, hw, erasedField, symField],
    fun hn => by rw [readIn, readEntry_of_unwritten hn, error_bind]⟩

end Sys2Proof.Machine
end

section
/-! SUPPORT. The operand checks of the polynomial commands, in their order (41_polynomial R144 to R147, R149). -/

namespace Sys2Proof.Machine

/-! ### Operand lengths and operand symbols (41_polynomial R149, 40_field_engine R111) -/

theorem readLen_of_out {r : Word} (h : r.toNat = 0 ∨ 65536 < r.toNat) :
    readLen r = .error (.fail .operandRange) := by
  rw [readLen, failIf_bind, if_pos h]

theorem readLen_of_le {r : Word} (h1 : 1 ≤ r.toNat) (h2 : r.toNat ≤ 65536) : readLen r = .ok r.toNat := by
  rw [readLen, failIf_bind, if_neg (by omega), pure_eq_ok]

section
variable {s : State} {b : Buf} {L i : Nat}

theorem readSyms_of_unwritten (h : s.UnwrittenAt b L i) :
    readSyms s b L = .error (.fault (.unwrittenRead b i)) :=
  (readSyms_eq_readBelow s b L).trans (readRange_readBelow_of_unwritten _ h)

theorem readSyms_of_invalid (h : s.InvalidAt b L i) : readSyms s b L = .error (.fail .invalidSymbol) :=
  (readSyms_eq_readBelow s b L).trans (readRange_readBelow_of_bad _ h)

end

theorem configuredCommand_of_fault {s : State} {body : State → Except Stop State} {e : Fault}
    (hc : s.configured = true) (h : body s = .error (.fault e)) : configuredCommand s body = .fault e :=
  (configuredCommand_of_configured hc body).trans (command_of_fault h)

/-! ### A sequence and a scalar: POLY_SCALE and POLY_EVAL -/

/-- The operands of POLY_SCALE (R144) and POLY_EVAL (R147): LEN_A, then PA, then OPA. -/
def withPaOpa (s : State) (k : Nat → List Nat → Nat → State) : Except Stop State := do
  let L ← readLen s.lenA
  let p ← readSyms s .pa L
  let x ← scalarSym s s.opA
  pure (k L p x)

/-- How a command on PA and OPA ends (R149). -/
theorem configuredCommand_withPaOpa {s : State} (hc : s.configured = true) {body : State → Except Stop State}
    {k : Nat → List Nat → Nat → State} (hk : body s = withPaOpa s k) :
    let L := s.lenA.toNat
    let run := configuredCommand s body
    (L = 0 ∨ 65536 < L → run = .next (s.finish .operandRange)) ∧
    (1 ≤ L → L ≤ 65536 →
      (∀ i, s.UnwrittenAt .pa L i → run = .fault (.unwrittenRead .pa i)) ∧
      (∀ i, s.InvalidAt .pa L i → run = .next (s.finish .invalidSymbol)) ∧
      (s.SymsReady .pa L → s.cfg.q ≤ s.opA.toNat → run = .next (s.finish .invalidSymbol)) ∧
      (s.SymsReady .pa L → s.opA.toNat < s.cfg.q →
        run = .next ((k L (s.symsOf .pa L) s.opA.toNat).finish .ok))) := by
  refine ⟨fun h => ?_, fun h1 h2 => ?_⟩
  · exact configuredCommand_of_fail hc (by rw [hk, withPaOpa, readLen_of_out h, error_bind])
  have hlen : body s = (do
      let p ← readSyms s .pa s.lenA.toNat
      let x ← scalarSym s s.opA
      pure (k s.lenA.toNat p x)) := by rw [hk, withPaOpa, readLen_of_le h1 h2, ok_bind]
  refine ⟨fun i hu => ?_, fun i hv => ?_, fun hp hx => ?_, fun hp hx => ?_⟩
  · exact configuredCommand_of_fault hc (by rw [hlen, readSyms_of_unwritten hu, error_bind])
  · exact configuredCommand_of_fail hc (by rw [hlen, readSyms_of_invalid hv, error_bind])
  · exact configuredCommand_of_fail hc
      (by rw [hlen, readSyms_of_ready hp, ok_bind, scalarSym_of_ge hx, error_bind])
  · exact configuredCommand_of_ok hc
      (by rw [hlen, readSyms_of_ready hp, ok_bind, scalarSym_of_lt hx, ok_bind, pure_eq_ok])

/-! ### Two sequences: POLY_ADD and POLY_MUL -/

/-- The operands of POLY_ADD (R145) and POLY_MUL (R146): LEN_A, LEN_B, then PA, then PB. -/
def withPaPb (s : State) (k : Nat → Nat → List Nat → List Nat → State) : Except Stop State := do
  let la ← readLen s.lenA
  let lb ← readLen s.lenB
  let p ← readSyms s .pa la
  let r ← readSyms s .pb lb
  pure (k la lb p r)

/-- How a command on PA and PB ends (R149). -/
theorem configuredCommand_withPaPb {s : State} (hc : s.configured = true) {body : State → Except Stop State}
    {k : Nat → Nat → List Nat → List Nat → State} (hk : body s = withPaPb s k) :
    let la := s.lenA.toNat
    let lb := s.lenB.toNat
    let run := configuredCommand s body
    (la = 0 ∨ 65536 < la ∨ lb = 0 ∨ 65536 < lb → run = .next (s.finish .operandRange)) ∧
    (1 ≤ la → la ≤ 65536 → 1 ≤ lb → lb ≤ 65536 →
      (∀ i, s.UnwrittenAt .pa la i → run = .fault (.unwrittenRead .pa i)) ∧
      (∀ i, s.InvalidAt .pa la i → run = .next (s.finish .invalidSymbol)) ∧
      (∀ i, s.SymsReady .pa la → s.UnwrittenAt .pb lb i → run = .fault (.unwrittenRead .pb i)) ∧
      (∀ i, s.SymsReady .pa la → s.InvalidAt .pb lb i → run = .next (s.finish .invalidSymbol)) ∧
      (s.SymsReady .pa la → s.SymsReady .pb lb →
        run = .next ((k la lb (s.symsOf .pa la) (s.symsOf .pb lb)).finish .ok))) := by
  refine ⟨fun h => configuredCommand_of_fail hc ?_, fun ha1 ha2 hb1 hb2 => ?_⟩
  · rw [hk, withPaPb]
    by_cases ha : s.lenA.toNat = 0 ∨ 65536 < s.lenA.toNat
    · rw [readLen_of_out ha, error_bind]
    · rw [readLen_of_le (by omega) (by omega), ok_bind, readLen_of_out (by omega), error_bind]
  have hlen : body s = (do
      let p ← readSyms s .pa s.lenA.toNat
      let r ← readSyms s .pb s.lenB.toNat
      pure (k s.lenA.toNat s.lenB.toNat p r)) := by
    rw [hk, withPaPb, readLen_of_le ha1 ha2, ok_bind, readLen_of_le hb1 hb2, ok_bind]
  refine ⟨fun i hu => ?_, fun i hv => ?_, fun i hp hu => ?_, fun i hp hv => ?_, fun hp hr => ?_⟩
  · exact configuredCommand_of_fault hc (by rw [hlen, readSyms_of_unwritten hu, error_bind])
  · exact configuredCommand_of_fail hc (by rw [hlen, readSyms_of_invalid hv, error_bind])
  · exact configuredCommand_of_fault hc
      (by rw [hlen, readSyms_of_ready hp, ok_bind, readSyms_of_unwritten hu, error_bind])
  · exact configuredCommand_of_fail hc
      (by rw [hlen, readSyms_of_ready hp, ok_bind, readSyms_of_invalid hv, error_bind])
  · exact configuredCommand_of_ok hc
      (by rw [hlen, readSyms_of_ready hp, ok_bind, readSyms_of_ready hr, ok_bind, pure_eq_ok])

end Sys2Proof.Machine
end

section
/-! SUPPORT. The coefficients of `poly_add` and `poly_mul`, for all sequences (41_polynomial R141, R142). -/

namespace Sys2Proof.Machine

/-- Sequences of one length are equal when their coefficients are. -/
theorem eq_of_getD {p r : List Nat} (hl : p.length = r.length) (h : ∀ k < p.length, p.getD k 0 = r.getD k 0) :
    p = r :=
  List.ext_getElem hl fun k hp hr => by
    rw [← List.getD_eq_getElem _ 0 hp, ← List.getD_eq_getElem _ 0 hr, h k hp]

theorem zeros_getD (L k : Nat) : (zeros L).getD k 0 = 0 := by
  rw [zeros, List.getD, List.getElem?_getD_replicate_default_eq]

theorem State.symsOf_getD (s : State) (b : Buf) {L i : Nat} (hi : i < L) : (s.symsOf b L).getD i 0 = s.symAt b i := by
  rw [List.getD_eq_getElem _ _ (by simpa using hi)]
  simp [State.symsOf]

theorem State.symsOf_succ (s : State) (b : Buf) (L : Nat) :
    s.symsOf b (L + 1) = s.symAt b 0 :: (List.range L).map fun i => s.symAt b (i + 1) := by
  simp [State.symsOf, List.range_succ_eq_map, Function.comp_def]

/-! ### Sums -/

/-- Coefficient `k` of an operand of length `l` aligned at the constant term within `L` coefficients (R141). -/
def alignedCoeff (L l : Nat) (c : Nat → Nat) (k : Nat) : Nat := if L - l ≤ k then c (k - (L - l)) else 0

theorem alignedCoeff_congr {L l : Nat} {c d : Nat → Nat} (hl : l ≤ L) (h : ∀ i < l, c i = d i) {k : Nat} (hk : k < L) :
    alignedCoeff L l c k = alignedCoeff L l d k := by
  unfold alignedCoeff
  split
  · exact h _ (by omega)
  · rfl

theorem padLeft_getD (L : Nat) (p : List Nat) (k : Nat) :
    (padLeft L p).getD k 0 = alignedCoeff L p.length (p.getD · 0) k := by
  unfold padLeft alignedCoeff
  split
  · next h => rw [List.getD_append_right _ _ _ _ (by simpa using h), zeros_length]
  · next h => rw [List.getD_append _ _ _ _ (by rw [zeros_length]; omega), zeros_getD]

theorem polyAdd_getD (p r : List Nat) {k : Nat} (hk : k < max p.length r.length) :
    (polyAdd p r).getD k 0 =
      alignedCoeff (max p.length r.length) p.length (p.getD · 0) k ^^^
        alignedCoeff (max p.length r.length) r.length (r.getD · 0) k := by
  have hp := padLeft_length (max p.length r.length) p
  have hr := padLeft_length (max p.length r.length) r
  rw [← padLeft_getD, ← padLeft_getD, List.getD_eq_getElem _ _ (by simpa using hk), List.getD_eq_getElem _ _ (by omega),
    List.getD_eq_getElem _ _ (by omega)]
  exact List.getElem_zipWith

theorem polyAdd_comm (p r : List Nat) : polyAdd p r = polyAdd r p := by
  unfold polyAdd
  rw [max_comm, List.zipWith_comm_of_comm Nat.xor_comm]

theorem polyAdd_self (p : List Nat) : polyAdd p p = zeros p.length := by
  simp [polyAdd, padLeft, zeros, List.zipWith_self]

/-! ### Products -/

/-- Coefficient `k` of a product: the XOR of the terms `t i j` with i + j = k, i < la and j < lb (R142). -/
def convCoeff (t : Nat → Nat → Nat) (la lb k : Nat) : Nat :=
  ((List.range lb).map fun j => if j ≤ k ∧ k - j < la then t (k - j) j else 0).foldl (fun a b => a ^^^ b) 0

theorem convCoeff_succ (t : Nat → Nat → Nat) (la lb k : Nat) :
    convCoeff t la (lb + 1) k =
      convCoeff t la lb k ^^^ if lb ≤ k ∧ k - lb < la then t (k - lb) lb else 0 := by
  simp [convCoeff, List.range_succ]

theorem convCoeff_congr {t u : Nat → Nat → Nat} {la lb : Nat} (h : ∀ i < la, ∀ j < lb, t i j = u i j) (k : Nat) :
    convCoeff t la lb k = convCoeff u la lb k := by
  induction lb with
  | zero => rfl
  | succ lb ih =>
    rw [convCoeff_succ, convCoeff_succ, ih fun i hi j hj => h i hi j (by omega)]
    congr 1
    split
    · next hk => exact h _ hk.2 _ (by omega)
    · rfl

/-- Past the product's length no i and j are left. -/
theorem convCoeff_of_ge (t : Nat → Nat → Nat) {la lb k : Nat} (hk : la + lb - 1 ≤ k) : convCoeff t la lb k = 0 := by
  induction lb with
  | zero => rfl
  | succ lb ih => rw [convCoeff_succ, ih (by omega), if_neg (by omega), Nat.xor_self]

@[simp] theorem repeatUp_xorAt_length (v : Nat → Nat) (n j : Nat) (out : List Nat) :
    (repeatUp 0 n out fun i out => xorAt out (i + j) (v i)).length = out.length :=
  repeatUp_invariant (P := fun b : List Nat => b.length = out.length) rfl fun _ _ _ _ h => by rw [xorAt_length, h]

/-- What the inner loop of `poly_mul` does: a shifted sequence is added. -/
theorem repeatUp_xorAt_getD (v : Nat → Nat) (n j : Nat) {out : List Nat} {k : Nat} (hk : k < out.length) :
    (repeatUp 0 n out fun i out => xorAt out (i + j) (v i)).getD k 0 =
      out.getD k 0 ^^^ if j ≤ k ∧ k - j < n then v (k - j) else 0 := by
  induction n with
  | zero => simp [repeatUp, repeatUpFrom]
  | succ n ih =>
    rw [repeatUp_succ, xorAt_getD _ _ _ _ (by rwa [repeatUp_xorAt_length]), ih]
    by_cases hkj : k = n + j
    · subst hkj; simp
    · rw [if_neg hkj]
      exact congrArg _ (if_congr (by omega) rfl rfl)

/-- What the loops of `poly_mul` do, after `n` rounds of the outer one. -/
theorem repeatUp_repeatUp_xorAt_getD (t : Nat → Nat → Nat) (la n : Nat) {L k : Nat} (hk : k < L) :
    (repeatUp 0 n (zeros L) fun j out => repeatUp 0 la out fun i out => xorAt out (i + j) (t i j)).getD k 0 =
      convCoeff t la n k := by
  induction n with
  | zero => exact zeros_getD L k
  | succ n ih =>
    have hlen := repeatUp_invariant (P := fun b : List Nat => b.length = L) (lo := 0) (hi := n) (zeros_length L)
      fun j b _ _ h => (repeatUp_xorAt_length (t · j) la j b).trans h
    rw [repeatUp_succ, repeatUp_xorAt_getD _ _ _ (hlen.symm ▸ hk), ih, convCoeff_succ]

theorem polyMul_getD (f : Field) (p r : List Nat) (k : Nat) :
    (polyMul f p r).getD k 0 =
      convCoeff (fun i j => gfMul f (p.getD i 0) (r.getD j 0)) p.length r.length k := by
  rcases lt_or_ge k (p.length + r.length - 1) with hk | hk
  · exact repeatUp_repeatUp_xorAt_getD (fun i j => gfMul f (p.getD i 0) (r.getD j 0)) p.length r.length hk
  · rw [convCoeff_of_ge _ hk, List.getD_eq_default _ _ (by rwa [polyMul_length])]

theorem polyScale_getD (f : Field) (p : List Nat) (x k : Nat) :
    (polyScale f p x).getD k 0 = gfMul f (p.getD k 0) x := by
  rw [polyScale, ← List.getD_map (f := fun c => gfMul f c x), zero_gfMul]

theorem getD_append_zero (p : List Nat) (k : Nat) : (p ++ [0]).getD k 0 = p.getD k 0 := by
  rcases lt_or_ge k p.length with hk | hk
  · exact List.getD_append _ _ _ _ hk
  · rw [List.getD_append_right _ _ _ _ hk, List.getD_eq_default p _ hk]
    cases k - p.length <;> rfl

/-- Horner's recursion for products: a further coefficient shifts the product and adds a multiple. -/
theorem polyMul_append_singleton (f : Field) {p : List Nat} (hp : 1 ≤ p.length) (r : List Nat) (d : Nat) :
    polyMul f p (r ++ [d]) = polyAdd (polyMul f p r ++ [0]) (polyScale f p d) := by
  have hl : (polyMul f p r ++ [0]).length = p.length + r.length := by simp; omega
  have hL : max (polyMul f p r ++ [0]).length (polyScale f p d).length = p.length + r.length := by
    rw [hl, polyScale_length]; omega
  refine eq_of_getD (by rw [polyAdd_length, hL]; simp) fun k hk => ?_
  have hk : k < p.length + r.length := by simp at hk; omega
  have hhead : convCoeff (fun i j => gfMul f (p.getD i 0) ((r ++ [d]).getD j 0)) p.length r.length k =
      (polyMul f p r).getD k 0 := by
    rw [polyMul_getD]
    exact convCoeff_congr (fun i _ j hj => by rw [List.getD_append _ _ _ _ hj]) k
  rw [polyMul_getD, List.length_append, List.length_singleton, convCoeff_succ, hhead, polyAdd_getD _ _ (hL.symm ▸ hk),
    hL, hl, polyScale_length]
  simp only [alignedCoeff, getD_append_zero, polyScale_getD, Nat.sub_self, Nat.zero_le, if_true, Nat.sub_zero,
    Nat.add_sub_cancel_left, List.getD_append_right _ _ _ _ (Nat.le_refl _), List.getD_cons_zero]
  congr 1
  exact if_congr (by omega) rfl rfl

end Sys2Proof.Machine
end

section
/-! SUPPORT. The symbols of a primitive constant as a commutative ring, and polynomials evaluated in it by Horner's rule
(40_field_engine R121, 41_polynomial R143, R148). -/

namespace Sys2Proof.Machine

/-! ### The ring of symbols (40_field_engine R121) -/

/-- The symbols below 2^m (R8). -/
abbrev Symbol (m : Nat) : Type := {x : Nat // x < 2 ^ m}

/-- A value below 2^m as a symbol; above, its low m bits. -/
def toSymbol (m x : Nat) : Symbol m := ⟨x % 2 ^ m, Nat.mod_lt _ (Nat.two_pow_pos m)⟩

/-- Symbols under XOR and `gf_mul` are a commutative ring. -/
@[reducible] def PrimitiveConstant.symbolRing {m prim : Nat} (h : PrimitiveConstant m prim) : CommRing (Symbol m) :=
  letI : Add (Symbol m) := ⟨fun x y => ⟨x.1 ^^^ y.1, h.closed.xor_lt x.2 y.2⟩⟩
  letI : Mul (Symbol m) := ⟨fun x y => ⟨gfMul (constField m prim) x.1 y.1, h.closed.gfMul_lt x.1 y.1⟩⟩
  letI : Neg (Symbol m) := ⟨id⟩
  letI : Zero (Symbol m) := ⟨0, h.closed.pos⟩
  letI : One (Symbol m) := ⟨1, Nat.one_lt_two_pow (Nat.ne_zero_of_lt h.two_le)⟩
  CommRing.ofMinimalAxioms
    (fun x y z => Subtype.ext (Nat.xor_assoc x.1 y.1 z.1))
    (fun x => Subtype.ext (Nat.zero_xor x.1))
    (fun x => Subtype.ext (Nat.xor_self x.1))
    (fun x y z => Subtype.ext (h.gfMul_assoc x.2 y.2 z.2))
    (fun x y => Subtype.ext (gfMul_comm _ x.1 y.1))
    (fun x => Subtype.ext ((gfMul_comm _ 1 x.1).trans (h.gfMul_one x.2)))
    (fun _ y z => Subtype.ext (h.gfMul_xor y.2 z.2))

/-! ### Symbols in a ring -/

/-- `v` takes a field's symbols below q into a commutative ring, one-to-one, XOR to its sum and `gf_mul` to its
product. -/
structure Field.Embeds (f : Field) (q : Nat) {A : Type*} [CommRing A] (v : Nat → A) : Prop extends f.Closed q where
  map_xor : ∀ {x y}, x < q → y < q → v (x ^^^ y) = v x + v y
  map_mul : ∀ {x y}, x < q → y < q → v (gfMul f x y) = v x * v y
  inj : ∀ {x y}, x < q → y < q → v x = v y → x = y

theorem PrimitiveConstant.embeds_toSymbol {m prim : Nat} (h : PrimitiveConstant m prim) :
    @Field.Embeds (constField m prim) (2 ^ m) (Symbol m) h.symbolRing (toSymbol m) := by
  let _ := h.symbolRing
  refine ⟨h.closed, fun _ _ => Subtype.ext (Nat.xor_mod_two_pow ..), fun {x y} hx hy => Subtype.ext ?_,
    fun {x y} hx hy he => ?_⟩
  · change gfMul (constField m prim) x y % 2 ^ m = gfMul (constField m prim) (x % 2 ^ m) (y % 2 ^ m)
    rw [Nat.mod_eq_of_lt (h.closed.gfMul_lt ..), Nat.mod_eq_of_lt hx, Nat.mod_eq_of_lt hy]
  · have he := congrArg Subtype.val he
    simpa only [toSymbol, Nat.mod_eq_of_lt hx, Nat.mod_eq_of_lt hy] using he

/-! ### Horner's rule (41_polynomial R143) -/

@[simp] theorem polyEval_singleton (f : Field) (c x : Nat) : polyEval f [c] x = c := rfl

theorem polyEval_append_singleton (f : Field) (c : Nat) (cs : List Nat) (d x : Nat) :
    polyEval f (c :: cs ++ [d]) x = gfMul f (polyEval f (c :: cs) x) x ^^^ d := by
  simp [polyEval]

theorem cwEval_eq_polyEval (f : Field) (w : List Nat) (x : Nat) : cwEval f w x = polyEval f w x := by
  cases w <;> rfl

theorem Field.Closed.polyEval_lt {f : Field} {q : Nat} (hf : f.Closed q) {p : List Nat} (hp : ∀ c ∈ p, c < q)
    (x : Nat) : polyEval f p x < q :=
  cwEval_eq_polyEval f p x ▸ hf.cwEval_lt hp x

theorem Field.Closed.polyMul_lt {f : Field} {q : Nat} (hf : f.Closed q) (p r : List Nat) : ∀ c ∈ polyMul f p r, c < q :=
  repeatUp_invariant (P := fun out : List Nat => ∀ c ∈ out, c < q)
    (fun _ hc => (List.eq_of_mem_replicate hc).trans_lt hf.pos)
    fun _ _ _ _ h => repeatUp_invariant (P := fun out : List Nat => ∀ c ∈ out, c < q) h
      fun _ _ _ _ h => hf.xorAt_lt h _ (hf.gfMul_lt ..)

/-- The value at `t` of the polynomial with coefficients `v c`, most significant first. -/
def horner {A : Type*} [CommRing A] (v : Nat → A) (t : A) (p : List Nat) : A := p.foldl (fun y c => y * t + v c) 0

section
variable {f : Field} {q : Nat} {A : Type*} [CommRing A] {v : Nat → A}

theorem horner_append_singleton (t : A) (p : List Nat) (d : Nat) :
    horner v t (p ++ [d]) = horner v t p * t + v d := by
  simp [horner]

variable (hv : f.Embeds q v)
include hv

theorem Field.Embeds.map_zero : v 0 = 0 := by
  have h := hv.map_xor hv.pos hv.pos
  rwa [Nat.xor_self, left_eq_add] at h

/-- Leading zeros do not change a value (R148). -/
theorem Field.Embeds.horner_zeros_append (t : A) (L : Nat) (p : List Nat) :
    horner v t (zeros L ++ p) = horner v t p := by
  induction L with
  | zero => rfl
  | succ L ih => simpa [horner, zeros, List.replicate_succ, hv.map_zero] using ih

/-- Padding for right alignment does not change a value (R141). -/
theorem Field.Embeds.horner_padLeft (t : A) (L : Nat) (p : List Nat) : horner v t (padLeft L p) = horner v t p :=
  hv.horner_zeros_append t _ p

theorem Field.Embeds.horner_zipWith_xor {p r : List Nat} (hl : p.length = r.length) (hp : ∀ c ∈ p, c < q)
    (hr : ∀ c ∈ r, c < q) (t : A) :
    horner v t (List.zipWith (fun a b => a ^^^ b) p r) = horner v t p + horner v t r := by
  induction p using List.reverseRecOn generalizing r with
  | nil =>
    obtain rfl := List.length_eq_zero_iff.1 hl.symm
    exact (add_zero _).symm
  | append_singleton p c ih =>
    cases r using List.reverseRecOn with
    | nil => simp at hl
    | append_singleton r d =>
      simp only [List.forall_mem_append, List.forall_mem_singleton] at hp hr
      have hl : p.length = r.length := by simpa using hl
      rw [List.zipWith_append hl, List.zipWith_cons_cons, List.zipWith_nil_left]
      simp only [horner_append_singleton]
      rw [ih hl hp.1 hr.1, hv.map_xor hp.2 hr.2]
      ring

theorem Field.Embeds.horner_polyAdd {p r : List Nat} (hp : ∀ c ∈ p, c < q) (hr : ∀ c ∈ r, c < q) (t : A) :
    horner v t (polyAdd p r) = horner v t p + horner v t r := by
  rw [polyAdd, hv.horner_zipWith_xor (by simp [padLeft_length]) (hv.padLeft_lt _ hp) (hv.padLeft_lt _ hr),
    hv.horner_padLeft, hv.horner_padLeft]

theorem Field.Embeds.horner_polyScale {p : List Nat} (hp : ∀ c ∈ p, c < q) {x : Nat} (hx : x < q) (t : A) :
    horner v t (polyScale f p x) = horner v t p * v x := by
  induction p using List.reverseRecOn with
  | nil => exact (zero_mul _).symm
  | append_singleton p c ih =>
    simp only [List.forall_mem_append, List.forall_mem_singleton] at hp
    rw [polyScale, List.map_append, List.map_singleton, horner_append_singleton, horner_append_singleton, ← polyScale,
      ih hp.1, hv.map_mul hp.2 hx]
    ring

theorem Field.Embeds.horner_polyMul {p r : List Nat} (h1 : 1 ≤ p.length) (hp : ∀ c ∈ p, c < q) (hr : ∀ c ∈ r, c < q)
    (t : A) : horner v t (polyMul f p r) = horner v t p * horner v t r := by
  induction r using List.reverseRecOn with
  | nil =>
    have hz := hv.horner_zeros_append t (p.length - 1) []
    rw [List.append_nil] at hz
    exact hz.trans (mul_zero _).symm
  | append_singleton r d ih =>
    simp only [List.forall_mem_append, List.forall_mem_singleton] at hr
    have hpr : ∀ c ∈ polyMul f p r ++ [0], c < q :=
      List.forall_mem_append.2 ⟨hv.polyMul_lt p r, List.forall_mem_singleton.2 hv.pos⟩
    rw [polyMul_append_singleton f h1, hv.horner_polyAdd hpr (hv.polyScale_lt p d), horner_append_singleton, ih hr.1,
      hv.horner_polyScale hp hr.2, horner_append_singleton, hv.map_zero]
    ring

theorem Field.Embeds.map_polyEval {p : List Nat} (hp : ∀ c ∈ p, c < q) {x : Nat} (hx : x < q) :
    v (polyEval f p x) = horner v (v x) p := by
  induction p using List.reverseRecOn with
  | nil => exact hv.map_zero
  | append_singleton p d ih =>
    simp only [List.forall_mem_append, List.forall_mem_singleton] at hp
    have hlt := hv.polyEval_lt hp.1 x
    rw [horner_append_singleton, ← ih hp.1]
    cases p with
    | nil => simp [polyEval, hv.map_zero]
    | cons c cs => rw [polyEval_append_singleton, hv.map_xor (hv.gfMul_lt ..) hp.2, hv.map_mul hlt hx]

/-! ### A sequence is its polynomial -/

theorem Field.Embeds.polynomial : f.Embeds q fun c => Polynomial.C (v c) where
  toClosed := hv.toClosed
  map_xor hx hy := by rw [hv.map_xor hx hy, Polynomial.C_add]
  map_mul hx hy := by rw [hv.map_mul hx hy, Polynomial.C_mul]
  inj hx hy he := hv.inj hx hy (Polynomial.C_injective he)

/-- Sequences of one length with one polynomial are equal. -/
theorem Field.Embeds.eq_of_horner_X {p r : List Nat} (hl : p.length = r.length) (hp : ∀ c ∈ p, c < q)
    (hr : ∀ c ∈ r, c < q)
    (h : horner (fun c => Polynomial.C (v c)) Polynomial.X p = horner (fun c => Polynomial.C (v c)) Polynomial.X r) :
    p = r := by
  induction p using List.reverseRecOn generalizing r with
  | nil => exact (List.length_eq_zero_iff.1 hl.symm).symm
  | append_singleton p c ih =>
    cases r using List.reverseRecOn with
    | nil => simp at hl
    | append_singleton r d =>
      simp only [List.forall_mem_append, List.forall_mem_singleton] at hp hr
      rw [horner_append_singleton, horner_append_singleton] at h
      have hlast : c = d := hv.inj hp.2 hr.2 (by simpa using congrArg (Polynomial.coeff · 0) h)
      subst hlast
      rw [ih (by simpa using hl) hp.1 hr.1 (Polynomial.isRegular_X.right (add_right_cancel h))]

/-! ### The laws (41_polynomial R148) -/

theorem Field.Embeds.polyAdd_assoc {p r s : List Nat} (hp : ∀ c ∈ p, c < q) (hr : ∀ c ∈ r, c < q)
    (hs : ∀ c ∈ s, c < q) : polyAdd (polyAdd p r) s = polyAdd p (polyAdd r s) := by
  have hX := hv.polynomial
  have hpr := hv.polyAdd_lt hp hr
  have hrs := hv.polyAdd_lt hr hs
  refine hv.eq_of_horner_X (by simp [max_assoc]) (hv.polyAdd_lt hpr hs) (hv.polyAdd_lt hp hrs) ?_
  rw [hX.horner_polyAdd hpr hs, hX.horner_polyAdd hp hr, hX.horner_polyAdd hp hrs, hX.horner_polyAdd hr hs, add_assoc]

theorem Field.Embeds.polyMul_comm {p r : List Nat} (hp1 : 1 ≤ p.length) (hr1 : 1 ≤ r.length) (hp : ∀ c ∈ p, c < q)
    (hr : ∀ c ∈ r, c < q) : polyMul f p r = polyMul f r p := by
  have hX := hv.polynomial
  refine hv.eq_of_horner_X (by simp [add_comm]) (hv.polyMul_lt p r) (hv.polyMul_lt r p) ?_
  rw [hX.horner_polyMul hp1 hp hr, hX.horner_polyMul hr1 hr hp, mul_comm]

theorem Field.Embeds.polyMul_assoc {p r s : List Nat} (hp1 : 1 ≤ p.length) (hr1 : 1 ≤ r.length) (hp : ∀ c ∈ p, c < q)
    (hr : ∀ c ∈ r, c < q) (hs : ∀ c ∈ s, c < q) : polyMul f (polyMul f p r) s = polyMul f p (polyMul f r s) := by
  have hX := hv.polynomial
  have hpr := hv.polyMul_lt p r
  have hrs := hv.polyMul_lt r s
  have hpr1 : 1 ≤ (polyMul f p r).length := by rw [polyMul_length]; omega
  refine hv.eq_of_horner_X (by simp only [polyMul_length]; omega) (hv.polyMul_lt _ s) (hv.polyMul_lt p _) ?_
  rw [hX.horner_polyMul hpr1 hpr hs, hX.horner_polyMul hp1 hp hr, hX.horner_polyMul hp1 hp hrs,
    hX.horner_polyMul hr1 hr hs, mul_assoc]

section
variable {p r : List Nat} (hp : ∀ c ∈ p, c < q) {x : Nat} (hx : x < q)
include hp hx

theorem Field.Embeds.polyEval_polyMul (hp1 : 1 ≤ p.length) (hr : ∀ c ∈ r, c < q) :
    polyEval f (polyMul f p r) x = gfMul f (polyEval f p x) (polyEval f r x) := by
  have hpr := hv.polyMul_lt p r
  refine hv.inj (hv.polyEval_lt hpr x) (hv.gfMul_lt ..) ?_
  rw [hv.map_mul (hv.polyEval_lt hp x) (hv.polyEval_lt hr x), hv.map_polyEval hpr hx, hv.map_polyEval hp hx,
    hv.map_polyEval hr hx, hv.horner_polyMul hp1 hp hr]

theorem Field.Embeds.polyEval_polyAdd (hr : ∀ c ∈ r, c < q) :
    polyEval f (polyAdd p r) x = polyEval f p x ^^^ polyEval f r x := by
  have hpx := hv.polyEval_lt hp x
  have hrx := hv.polyEval_lt hr x
  have hpr := hv.polyAdd_lt hp hr
  refine hv.inj (hv.polyEval_lt hpr x) (hv.xor_lt hpx hrx) ?_
  rw [hv.map_xor hpx hrx, hv.map_polyEval hpr hx, hv.map_polyEval hp hx, hv.map_polyEval hr hx, hv.horner_polyAdd hp hr]

theorem Field.Embeds.polyEval_polyScale {y : Nat} (hy : y < q) :
    polyEval f (polyScale f p y) x = gfMul f y (polyEval f p x) := by
  have hpy := hv.polyScale_lt p y
  refine hv.inj (hv.polyEval_lt hpy x) (hv.gfMul_lt ..) ?_
  rw [hv.map_mul hy (hv.polyEval_lt hp x), hv.map_polyEval hpy hx, hv.map_polyEval hp hx, hv.horner_polyScale hp hy,
    mul_comm]

theorem Field.Embeds.polyEval_zeros_append (L : Nat) : polyEval f (zeros L ++ p) x = polyEval f p x := by
  have hz : ∀ c ∈ zeros L ++ p, c < q :=
    List.forall_mem_append.2 ⟨fun _ hc => (List.eq_of_mem_replicate hc).trans_lt hv.pos, hp⟩
  refine hv.inj (hv.polyEval_lt hz x) (hv.polyEval_lt hp x) ?_
  rw [hv.map_polyEval hz hx, hv.map_polyEval hp hx, hv.horner_zeros_append]

end

end

end Sys2Proof.Machine
end

section
/-! PROOFS. The statements of 41_polynomial. -/

namespace Sys2Proof.Machine

/-- Settles O16: the three operand checks, then the scaled sequence. -/
theorem polyScaleResult : Obligations.PolyScaleResult := by
  intro s hc
  obtain ⟨hlen, hops⟩ := configuredCommand_withPaOpa hc (body := polyScaleBody) (k := fun L p x =>
    { s with mem := s.mem.store .pr (polyScale s.field p x), lenR := zext32 L }) rfl
  rw [zext32_word] at hops
  exact ⟨hlen, hops⟩

/-- Settles O17: the four operand checks, then the sum of two sequences aligned at the constant term. -/
theorem polyAddResult : Obligations.PolyAddResult := by
  refine ⟨fun s hc => ?_, fun p r => ⟨polyAdd_length p r, fun i hi => polyAdd_getD p r hi⟩⟩
  obtain ⟨hlen, hops⟩ := configuredCommand_withPaPb hc (body := polyAddBody) (k := fun la lb p r =>
    { s with mem := s.mem.store .pr (polyAdd p r), lenR := zext32 (max la lb) }) rfl
  refine ⟨hlen, fun ha ha' hb hb' => ?_⟩
  obtain ⟨hua, hva, hub, hvb, hok⟩ := hops ha ha' hb hb'
  refine ⟨hua, hva, hub, hvb, fun hp hr => ⟨_, ?_, fun i hi => ?_, hok hp hr⟩⟩
  · rw [polyAdd_length, s.symsOf_length, s.symsOf_length]
  · rw [polyAdd_getD _ _ (by rwa [s.symsOf_length, s.symsOf_length]), s.symsOf_length, s.symsOf_length,
      alignedCoeff_congr (le_max_left ..) (fun i => s.symsOf_getD .pa) hi,
      alignedCoeff_congr (le_max_right ..) (fun i => s.symsOf_getD .pb) hi]
    rfl

/-- Settles O18: the four operand checks, then the convolution. -/
theorem polyMulResult : Obligations.PolyMulResult := by
  refine ⟨fun s hc => ?_, fun f p r _ _ => ⟨polyMul_length f p r, fun k _ => polyMul_getD f p r k⟩⟩
  obtain ⟨hlen, hops⟩ := configuredCommand_withPaPb hc (body := polyMulBody) (k := fun la lb p r =>
    { s with mem := s.mem.store .pr (polyMul s.field p r), lenR := zext32 (la + lb - 1) }) rfl
  refine ⟨hlen, fun ha ha' hb hb' => ?_⟩
  obtain ⟨hua, hva, hub, hvb, hok⟩ := hops ha ha' hb hb'
  refine ⟨hua, hva, hub, hvb, fun hp hr => ⟨_, ?_, fun k _ => ?_, hok hp hr⟩⟩
  · rw [polyMul_length, s.symsOf_length, s.symsOf_length]
  · rw [polyMul_getD, s.symsOf_length, s.symsOf_length]
    exact convCoeff_congr (u := fun i j => gfMul s.field (s.symAt .pa i) (s.symAt .pb j))
      (fun i hi j hj => by rw [s.symsOf_getD _ hi, s.symsOf_getD _ hj]) k

/-- Settles O19: the three operand checks, then Horner's fold. -/
theorem polyEvalResult : Obligations.PolyEvalResult := by
  refine ⟨fun s hc => ?_, fun f c cs x => ⟨polyEval_singleton f c x, fun d => polyEval_append_singleton f c cs d x⟩⟩
  obtain ⟨hlen, hops⟩ := configuredCommand_withPaOpa hc (body := polyEvalBody) (k := fun _ p x =>
    { s with result := zext32 (polyEval s.field p x) }) rfl
  refine ⟨hlen, fun h1 h2 => ?_⟩
  obtain ⟨hu, hv, hx, hok⟩ := hops h1 h2
  refine ⟨hu, hv, hx, fun hp hx => ?_⟩
  have hsyms := s.symsOf_succ .pa (s.lenA.toNat - 1)
  rw [Nat.sub_add_cancel h1] at hsyms
  have hrun := hok hp hx
  rw [hsyms] at hrun
  exact hrun

/-- Settles O20: the symbols are a commutative ring, where a sequence's value at X is its polynomial. -/
theorem polynomialLaws : Obligations.PolynomialLaws := by
  intro m prim h2 _ hlo hhi hprim q f Syms p r s ⟨hp1, hp⟩ ⟨hr1, hr⟩ ⟨_, hs⟩ x y L hx hy
  have h : PrimitiveConstant m prim := ⟨h2, hlo, hhi, hprim⟩
  let _ := h.symbolRing
  have hv : f.Embeds q (toSymbol m) := h.embeds_toSymbol
  exact ⟨polyAdd_comm p r, hv.polyAdd_assoc hp hr hs, polyAdd_self p, hv.polyMul_comm hp1 hr1 hp hr,
    hv.polyMul_assoc hp1 hr1 hp hr hs, hv.polyEval_polyMul hp hx hp1 hr, hv.polyEval_polyAdd hp hx hr,
    hv.polyEval_polyScale hp hx hy, hv.polyEval_zeros_append hp hx L, polyMul_length f p r, polyAdd_length p r⟩

end Sys2Proof.Machine
end

section
/-! SUPPORT. The message reads of ENCODE, the generator's coefficients, and the encoder's division round by round
(42_encoder R160, R162, R163). -/

namespace Sys2Proof.Machine

/-! ### The message reads (42_encoder R163) -/

section
variable {s : State} {L i : Nat}

theorem readMessageSym_of_unwritten (h : s.mem.entry? .inp i = none) :
    readMessageSym s i = .error (.fault (.unwrittenRead .inp i)) := by
  rw [readMessageSym, readIn, readEntry_of_unwritten h, error_bind, error_bind]

theorem readMessageSym_of_bad (h : s.MessageBadAt L i) : readMessageSym s i = .error (.fail .invalidSymbol) := by
  obtain ⟨-, -, hw, hbad⟩ := h
  obtain ⟨w, hw⟩ := Option.isSome_iff_exists.1 hw
  simp only [State.erasedAt, State.symAt, hw, Option.getD_some] at hbad
  simp only [readMessageSym, readIn, readEntry, hw, ok_bind, pure_eq_ok, failIf_bind]
  split
  · rfl
  · next he => rw [if_pos (hbad.resolve_left he)]

/-- The message read ends at the first entry that is no message symbol, with its error (R163, R252). -/
theorem readMessage_of_first {e : Stop} (hi : i < L) (hr : s.MessageReady i) (he : readMessageSym s i = .error e) :
    readRange (readMessageSym s) 0 L = .error e := by
  have hlow (l : Nat) (hl : l < i) : readMessageSym s (0 + l) = .ok (s.symAt .inp (0 + l)) := by
    have hget := readRange_getElem (readMessage_of_ready hr) (j := l) (by rwa [s.symsOf_length])
    rw [hget, ← List.getD_eq_getElem _ 0, s.symsOf_getD _ hl, Nat.zero_add]
  exact readRange_of_first_error hi hlow (by rwa [Nat.zero_add])

end

/-! ### The generator's coefficients (42_encoder R160) -/

theorem generator_succ (f : Field) (t : Nat) :
    generator f (t + 1) = polyMul f (generator f t) [1, f.expAt t] := repeatUp_succ ..

theorem generator_getD_zero {f : Field} (h : gfMul f 1 1 = 1) (t : Nat) : (generator f t).getD 0 0 = 1 := by
  induction t with
  | zero => rfl
  | succ t ih =>
    have hlead : (polyMul f (generator f t) [1, f.expAt t]).getD 0 0 = gfMul f ((generator f t).getD 0 0) 1 := by
      rw [polyMul_getD]
      simp [convCoeff, List.range_succ, generator_length]
    rw [generator_succ, hlead, ih, h]

theorem Field.Closed.generator_lt {f : Field} {q : Nat} (hf : f.Closed q) (h1 : 1 < q) (t : Nat) :
    ∀ c ∈ generator f t, c < q := by
  cases t with
  | zero => exact List.forall_mem_singleton.2 h1
  | succ t => exact generator_succ f t ▸ hf.polyMul_lt _ _

/-! ### One round of the division (42_encoder R162) -/

section
variable {f : Field} {g : List Nat} {nsym i : Nat} {buf : List Nat}

theorem encodeRound_of_zero (hc : buf.getD i 0 = 0) : encodeRound f g nsym i buf = buf := by
  simp only [encodeRound, hc, ne_eq, not_true_eq_false, if_false]

theorem Field.Closed.encodeRound_lt {q : Nat} (hf : f.Closed q) (hbuf : ∀ c ∈ buf, c < q) :
    ∀ c ∈ encodeRound f g nsym i buf, c < q := by
  unfold encodeRound
  dsimp only
  split
  · exact repeatUp_invariant (P := fun b : List Nat => ∀ c ∈ b, c < q) hbuf
      fun _ _ _ _ h => hf.xorAt_lt h _ (hf.gfMul_lt ..)
  · exact hbuf

/-- Under a monic divisor the round clears its own entry and keeps those before it. -/
theorem encodeRound_getD_of_le (hg : gfMul f (g.getD 0 0) (buf.getD i 0) = buf.getD i 0) (hi : i < buf.length)
    {k : Nat} (hk : k ≤ i) : (encodeRound f g nsym i buf).getD k 0 = if k = i then 0 else buf.getD k 0 := by
  by_cases hc : buf.getD i 0 = 0
  · rw [encodeRound_of_zero hc]
    split
    · next h => rw [h, hc]
    · rfl
  · rw [encodeRound_getD f g nsym i buf (by omega) hc]
    rcases Nat.lt_or_eq_of_le hk with hlt | rfl
    · rw [if_neg (by omega), if_neg (by omega)]
    · rw [if_pos (by omega), if_pos rfl, Nat.sub_self, hg, Nat.xor_self]

theorem alignedCoeff_self (L : Nat) (c : Nat → Nat) (k : Nat) : alignedCoeff L L c k = c k := by
  simp [alignedCoeff]

theorem getD_append_zeros (p : List Nat) (L k : Nat) : (p ++ zeros L).getD k 0 = p.getD k 0 := by
  rcases lt_or_ge k p.length with hk | hk
  · exact List.getD_append _ _ _ _ hk
  · rw [List.getD_append_right _ _ _ _ hk, zeros_getD, List.getD_eq_default _ _ hk]

/-- A round at a nonzero entry adds a multiple of the divisor, shifted to that entry. -/
theorem encodeRound_eq_polyAdd (hg : g.length = nsym + 1) (hi : i + nsym < buf.length) (hc : buf.getD i 0 ≠ 0) :
    encodeRound f g nsym i buf =
      polyAdd buf (polyScale f g (buf.getD i 0) ++ zeros (buf.length - (i + nsym + 1))) := by
  have hlen : (polyScale f g (buf.getD i 0) ++ zeros (buf.length - (i + nsym + 1))).length = buf.length - i := by
    rw [List.length_append, polyScale_length, zeros_length]; omega
  have hmax : max buf.length (buf.length - i) = buf.length := max_eq_left (Nat.sub_le ..)
  have hshift : buf.length - (buf.length - i) = i := by omega
  refine eq_of_getD (by rw [encodeRound_length, polyAdd_length, hlen, hmax]) fun k hk => ?_
  rw [encodeRound_length] at hk
  rw [encodeRound_getD f g nsym i buf hk hc, polyAdd_getD _ _ (by rwa [hlen, hmax]), hlen, hmax]
  rw [alignedCoeff_self, alignedCoeff, hshift, getD_append_zeros, polyScale_getD]
  split
  · next h => rw [if_pos h.1]
  · split
    · rw [List.getD_eq_default g 0 (by omega), zero_gfMul, Nat.xor_zero]
    · rw [Nat.xor_zero]

end

/-! ### The working buffer (42_encoder R162) -/

/-- The buffer of `encode` after `i` rounds of the division. -/
def encodeBuffer (f : Field) (nsym : Nat) (msg : List Nat) (i : Nat) : List Nat :=
  repeatUp 0 i (msg ++ zeros nsym) (encodeRound f (generator f nsym) nsym)

section
variable (f : Field) (nsym : Nat) (msg : List Nat)

theorem encodeBuffer_zero : encodeBuffer f nsym msg 0 = msg ++ zeros nsym := rfl

theorem encodeBuffer_succ (i : Nat) :
    encodeBuffer f nsym msg (i + 1) = encodeRound f (generator f nsym) nsym i (encodeBuffer f nsym msg i) :=
  repeatUp_succ ..

@[simp] theorem encodeBuffer_length (i : Nat) : (encodeBuffer f nsym msg i).length = msg.length + nsym := by
  induction i with
  | zero => simp [encodeBuffer_zero]
  | succ i ih => rw [encodeBuffer_succ, encodeRound_length, ih]

theorem encodeBlock_eq : encodeBlock f nsym msg = msg ++ (encodeBuffer f nsym msg msg.length).drop msg.length := by
  change msg ++ slice (encodeBuffer f nsym msg msg.length) _ _ = _
  rw [slice, List.take_of_length_le (by simp)]

@[simp] theorem encodeBlock_length : (encodeBlock f nsym msg).length = msg.length + nsym := by
  simp [encodeBlock_eq]

end

section
variable {f : Field} {q : Nat} (hf : f.Closed q) (nsym : Nat) {msg : List Nat} (hmsg : ∀ c ∈ msg, c < q)
include hf hmsg

theorem Field.Closed.encodeBuffer_lt (i : Nat) : ∀ c ∈ encodeBuffer f nsym msg i, c < q :=
  repeatUp_invariant (P := fun b : List Nat => ∀ c ∈ b, c < q)
    (List.forall_mem_append.2 ⟨hmsg, fun _ hc => (List.eq_of_mem_replicate hc).trans_lt hf.pos⟩)
    fun _ _ _ _ => hf.encodeRound_lt

/-- Where 1 is neutral, `i` rounds clear the first `i` entries. -/
theorem Field.Closed.encodeBuffer_getD_of_lt (h1 : ∀ x < q, gfMul f 1 x = x) (hq : 1 < q) {i : Nat}
    (hi : i ≤ msg.length) {k : Nat} (hk : k < i) : (encodeBuffer f nsym msg i).getD k 0 = 0 := by
  induction i with
  | zero => exact absurd hk (Nat.not_lt_zero k)
  | succ i ih =>
    have hcoef := getD_lt_of_forall hf.pos (hf.encodeBuffer_lt nsym hmsg i) i
    rw [encodeBuffer_succ, encodeRound_getD_of_le (by rw [generator_getD_zero (h1 1 hq), h1 _ hcoef])
      (by rw [encodeBuffer_length]; omega) (Nat.le_of_lt_succ hk)]
    split
    · rfl
    · exact ih (by omega) (by omega)

/-- What the division clears is the message, so the codeword is the first buffer plus the last. -/
theorem Field.Closed.encodeBlock_eq_polyAdd (h1 : ∀ x < q, gfMul f 1 x = x) (hq : 1 < q) :
    encodeBlock f nsym msg = polyAdd (encodeBuffer f nsym msg 0) (encodeBuffer f nsym msg msg.length) := by
  refine eq_of_getD (by simp) fun k hk => ?_
  rw [encodeBlock_length] at hk
  rw [polyAdd_getD _ _ (by simpa using hk), encodeBuffer_length, encodeBuffer_length, max_self]
  rw [alignedCoeff_self, alignedCoeff_self, encodeBlock_eq, encodeBuffer_zero, getD_append_zeros]
  rcases lt_or_ge k msg.length with hlt | hge
  · rw [List.getD_append _ _ _ _ hlt, hf.encodeBuffer_getD_of_lt nsym hmsg h1 hq le_rfl hlt, Nat.xor_zero]
  · rw [List.getD_append_right _ _ _ _ hge, List.getD_eq_default msg 0 hge, Nat.zero_xor]
    simp only [List.getD, List.getElem?_drop, Nat.add_sub_cancel' hge]

end

end Sys2Proof.Machine
end

section
/-! SUPPORT. The generator's roots, and the value of the encoder's buffer at one of them (42_encoder R164). -/

namespace Sys2Proof.Machine

/-- A root of a polynomial is a root of its multiples by powers of x. -/
theorem polyEval_append_zeros {f : Field} {p : List Nat} {x : Nat} (h : polyEval f p x = 0) (L : Nat) :
    polyEval f (p ++ zeros L) x = 0 := by
  induction L with
  | zero => rwa [zeros, List.replicate_zero, List.append_nil]
  | succ L ih =>
    rw [zeros, List.replicate_succ', ← List.append_assoc, ← zeros]
    cases hp : p ++ zeros L with
    | nil => rfl
    | cons c cs => rw [polyEval_append_singleton, ← hp, ih, zero_gfMul, Nat.xor_self]

section
variable {f : Field} {q : Nat} {A : Type*} [CommRing A] {v : Nat → A} (hv : f.Embeds q v) {x : Nat} (hx : x < q)
include hv hx

/-- A round keeps the buffer's value at a root of the divisor. -/
theorem Field.Embeds.polyEval_encodeRound {g : List Nat} {nsym i : Nat} {buf : List Nat} (hg : g.length = nsym + 1)
    (hi : i + nsym < buf.length) (hbuf : ∀ c ∈ buf, c < q) (hgq : ∀ c ∈ g, c < q) (hroot : polyEval f g x = 0) :
    polyEval f (encodeRound f g nsym i buf) x = polyEval f buf x := by
  by_cases hc : buf.getD i 0 = 0
  · rw [encodeRound_of_zero hc]
  · have hmul : polyEval f (polyScale f g (buf.getD i 0)) x = 0 := by
      rw [hv.polyEval_polyScale hgq hx (getD_lt_of_forall hv.pos hbuf i), hroot, gfMul_zero]
    have hlt (L : Nat) : ∀ c ∈ polyScale f g (buf.getD i 0) ++ zeros L, c < q :=
      List.forall_mem_append.2 ⟨hv.polyScale_lt _ _, fun _ hz => (List.eq_of_mem_replicate hz).trans_lt hv.pos⟩
    rw [encodeRound_eq_polyAdd hg hi hc, hv.polyEval_polyAdd hbuf hx (hlt _), polyEval_append_zeros hmul, Nat.xor_zero]

variable (hq : 1 < q) {nsym : Nat} {msg : List Nat} (hmsg : ∀ c ∈ msg, c < q)
  (hroot : polyEval f (generator f nsym) x = 0)
include hq hmsg hroot

theorem Field.Embeds.polyEval_encodeBuffer {i : Nat} (hi : i ≤ msg.length) :
    polyEval f (encodeBuffer f nsym msg i) x = polyEval f (encodeBuffer f nsym msg 0) x := by
  induction i with
  | zero => rfl
  | succ i ih =>
    rw [encodeBuffer_succ, hv.polyEval_encodeRound hx (generator_length f nsym) (by rw [encodeBuffer_length]; omega)
      (hv.encodeBuffer_lt nsym hmsg i) (hv.generator_lt hq nsym) hroot, ih (by omega)]

/-- The codeword is the sum of two buffers of one value at each root of the generator. -/
theorem Field.Embeds.polyEval_encodeBlock (h1 : ∀ x < q, gfMul f 1 x = x) :
    polyEval f (encodeBlock f nsym msg) x = 0 := by
  have hlt := hv.encodeBuffer_lt nsym hmsg
  rw [hv.encodeBlock_eq_polyAdd nsym hmsg h1 hq, hv.polyEval_polyAdd (hlt 0) hx (hlt _),
    hv.polyEval_encodeBuffer hx hq hmsg hroot le_rfl, Nat.xor_self]

end

section
variable {m prim : Nat} (h : PrimitiveConstant m prim)
include h

theorem PrimitiveConstant.one_lt : 1 < 2 ^ m := Nat.one_lt_two_pow (Nat.ne_zero_of_lt h.two_le)

theorem PrimitiveConstant.one_gfMul {x : Nat} (hx : x < 2 ^ m) : gfMul (constField m prim) 1 x = x :=
  (gfMul_comm ..).trans (h.gfMul_one hx)

/-- The root a factor [1, EXP[i]] brings stays a root under the later factors (R160). -/
theorem PrimitiveConstant.polyEval_generator {t i : Nat} (hi : i < t) :
    polyEval (constField m prim) (generator (constField m prim) t) ((constField m prim).expAt i) = 0 := by
  let _ := h.symbolRing
  have hE := h.closed.exp_lt
  induction t with
  | zero => exact absurd hi (Nat.not_lt_zero i)
  | succ t ih =>
    have hfactor : ∀ c ∈ [1, (constField m prim).expAt t], c < 2 ^ m := by simp [h.one_lt, hE]
    rw [generator_succ, h.embeds_toSymbol.polyEval_polyMul (h.closed.generator_lt h.one_lt t) (hE i)
      (by rw [generator_length]; omega) hfactor]
    rcases Nat.lt_succ_iff_lt_or_eq.1 hi with hlt | rfl
    · rw [ih hlt, zero_gfMul]
    · have hroot : gfMul (constField m prim) 1 ((constField m prim).expAt i) ^^^ (constField m prim).expAt i = 0 := by
        rw [h.one_gfMul (hE i), Nat.xor_self]
      exact (congrArg _ hroot).trans (gfMul_zero ..)

end

end Sys2Proof.Machine
end

section
/-! PROOFS. The statements of 42_encoder. -/

namespace Sys2Proof.Machine

/-- Settles O21: GEN_POLY has no check of its own, and the generator's loop ends with its last factor. -/
theorem genPolyResult : Obligations.GenPolyResult :=
  ⟨fun _ hc => configuredCommand_of_ok hc (pure_eq_ok _),
    fun f => ⟨rfl, fun t => ⟨generator_succ f t, generator_length f t⟩⟩⟩

/-- Settles O22: the length check, then the message read up to its first bad entry, then the block. -/
theorem encodeResult : Obligations.EncodeResult := by
  intro s hc L nsym
  refine ⟨fun hlong => ?_, fun hle => ?_⟩
  · exact configuredCommand_of_fail hc (by rw [encodeBody, failIf_bind, if_pos hlong])
  have hread {e : Stop} (he : readRange (readMessageSym s) 0 L = .error e) : encodeBody s = .error e := by
    rw [encodeBody, failIf_bind, if_neg hle.not_gt, he, error_bind]
  refine ⟨fun i hi hr hn => ?_, fun i hb => ?_, fun hr => ?_⟩
  · exact configuredCommand_of_fault hc (hread (readMessage_of_first hi hr (readMessageSym_of_unwritten hn)))
  · have ⟨hi, hr, _⟩ := hb
    exact configuredCommand_of_fail hc (hread (readMessage_of_first hi hr (readMessageSym_of_bad hb)))
  · exact configuredCommand_of_ok hc
      (by rw [encodeBody, failIf_bind, if_neg hle.not_gt, readMessage_of_ready hr, ok_bind, pure_eq_ok])

/-- Settles O23: the parity stands after the message, and the rounds are those of the working buffer. -/
theorem encoderSystematic : Obligations.EncoderSystematic := by
  intro f nsym msg
  refine ⟨?_, encodeBlock_length f nsym msg, fun h => generator_getD_zero h nsym, encodeBuffer f nsym msg,
    encodeBuffer_zero f nsym msg, encodeBlock_eq f nsym msg, fun i _ => ⟨fun hc => ?_, fun hc => ⟨?_, fun k hk => ?_⟩⟩⟩
  · rw [encodeBlock_eq, List.take_left]
  · rw [encodeBuffer_succ, encodeRound_of_zero hc]
  · exact encodeBuffer_length f nsym msg (i + 1)
  · rw [encodeBuffer_succ, encodeRound_getD _ _ _ _ _ (by rwa [encodeBuffer_length]) hc]

/-- Settles O24: each evaluation point is a root of the generator, so of the codeword. -/
theorem encodedBlockHasZeroSyndromes : Obligations.EncodedBlockHasZeroSyndromes := by
  intro m prim h2 _ hlo hhi hprim q f nsym msg _ hmsg
  have h : PrimitiveConstant m prim := ⟨h2, hlo, hhi, hprim⟩
  let _ := h.symbolRing
  have hv : f.Embeds q (toSymbol m) := h.embeds_toSymbol
  refine List.eq_replicate_iff.2 ⟨syndromes_length f nsym _, List.forall_mem_map.2 fun i hi => ?_⟩
  rw [cwEval_eq_polyEval]
  exact hv.polyEval_encodeBlock (hv.exp_lt i) h.one_lt hmsg (h.polyEval_generator (List.mem_range.1 hi))
    fun _ => h.one_gfMul

end Sys2Proof.Machine
end

section
/-! SUPPORT. The operand checks of the decoder front end's commands, in their order, what LOAD takes from a received
block, and that Forney steps commute (43_decoder_front R180, R183 to R186). -/

namespace Sys2Proof.Machine

/-! ### Reads and checks (40_field_engine R111, 43_decoder_front R180, R183) -/

/-- A range read whose first elements are read well ends at the next, if that fails (R252). -/
theorem readRange_of_error_after {α : Type} {rd : Nat → Except Stop α} {i j k : Nat} {vs : List α} {e : Stop}
    (hj : j < k) (hp : readRange rd i j = .ok vs) (he : rd (i + j) = .error e) : readRange rd i k = .error e := by
  induction j generalizing i k vs with
  | zero =>
    obtain ⟨k, rfl⟩ := Nat.exists_eq_add_of_le' hj
    rw [readRange, show rd i = _ from he, error_bind]
  | succ j ih =>
    obtain ⟨k, rfl⟩ := Nat.exists_eq_add_of_le' (Nat.one_le_of_lt hj)
    obtain ⟨v, hv, hrest⟩ := bind_eq_ok.1 hp
    obtain ⟨ws, hw, -⟩ := bind_eq_ok.1 hrest
    rw [readRange, hv, ok_bind, ih (Nat.lt_of_succ_lt_succ hj) hw (by rwa [Nat.add_right_comm, Nat.add_assoc]),
      error_bind]

section
variable {s : State} {b : Buf} {L limit i : Nat}

theorem readPositions_of_unwritten (h : s.PosUnwrittenAt b L limit i) :
    readPositions s limit b L = .error (.fault (.unwrittenRead b i)) :=
  (readPositions_eq_readBelow s limit b L).trans (readRange_readBelow_of_unwritten _ h)

theorem readPositions_of_bad (h : s.PosBadAt b L limit i) : readPositions s limit b L = .error (.fail .operandRange) :=
  (readPositions_eq_readBelow s limit b L).trans (readRange_readBelow_of_bad _ h)

theorem readNmess_of_gt (h : s.cfg.n < s.lenWork.toNat) : readNmess s = .error (.fail .inputTooLong) := by
  rw [readNmess, failIf_bind, if_pos h]

theorem readNmess_of_le (h : s.lenWork.toNat ≤ s.cfg.n) : readNmess s = .ok s.lenWork.toNat := by
  rw [readNmess, failIf_bind, if_neg h.not_gt, pure_eq_ok]

theorem readReceived_of_unwritten (h : s.mem.entry? .inp i = none) :
    readReceived s i = .error (.fault (.unwrittenRead .inp i)) := by
  rw [readReceived, readIn, readEntry_of_unwritten h, error_bind, error_bind]

theorem readReceived_of_bad (h : s.ReceivedBadAt L i) : readReceived s i = .error (.fail .invalidSymbol) := by
  obtain ⟨-, -, hw, he, hq⟩ := h
  obtain ⟨w, hw⟩ := Option.isSome_iff_exists.1 hw
  simp only [State.erasedAt, State.symAt, hw, Option.getD_some] at he hq
  simp [readReceived, readIn, readEntry, hw, he, hq]

end

/-! ### LOAD (43_decoder_front R180) -/

/-- The working codeword of IN: its symbols, 0 where erased. -/
theorem State.workingCodeword_receivedOf (s : State) (L : Nat) :
    workingCodeword (s.receivedOf L) = (List.range L).map fun i => if s.erasedAt i then 0 else s.symAt .inp i := by
  rw [workingCodeword, State.receivedOf, List.map_map]
  refine List.map_congr_left fun i _ => ?_
  rw [Function.comp_apply]
  cases s.erasedAt i <;> rfl

theorem erasuresFrom_map_range' (g : Nat → Option Nat) (i k : Nat) :
    erasuresFrom i ((List.range' i k).map g) = (List.range' i k).filter fun j => (g j).isNone := by
  induction k generalizing i with
  | zero => rfl
  | succ k ih =>
    rw [List.range'_succ, List.map_cons, List.filter_cons]
    cases g i with
    | none => exact congrArg _ (ih (i + 1))
    | some v => exact ih (i + 1)

/-- The erased positions of IN, ascending. -/
theorem State.erasuresFrom_receivedOf (s : State) (L : Nat) :
    erasuresFrom 0 (s.receivedOf L) = (List.range L).filter fun i => s.erasedAt i := by
  rw [State.receivedOf, List.range_eq_range', erasuresFrom_map_range']
  refine List.filter_congr fun i _ => ?_
  cases s.erasedAt i <;> rfl

/-! ### FORNEY_SYN (43_decoder_front R184, R185) -/

/-- What FORNEY_SYN does once its three length checks pass. -/
theorem forneySynBody_of_le {s : State} (hn : s.lenWork.toNat ≤ s.cfg.n) (hL : s.lenSyn.toNat ≤ 65536)
    (he : s.numEra.toNat ≤ s.lenSyn.toNat) :
    forneySynBody s = (do
      let S ← readSyms s .syn s.lenSyn.toNat
      let era ← readPositions s s.lenWork.toNat .era s.numEra.toNat
      pure { s with
        mem := s.mem.store .fsyn (forney s.field S era s.lenWork.toNat)
        lenFsyn := zext32 (s.lenSyn.toNat - s.numEra.toNat) }) := by
  rw [forneySynBody, readNmess_of_le hn, ok_bind, failIf_bind, if_neg hL.not_gt, failIf_bind, if_neg he.not_gt]

theorem forney_cons (f : Field) (S : List Nat) (p : Nat) (era : List Nat) (nmess : Nat) :
    forney f S (p :: era) nmess = forney f (forneyStep f (locatorValue f nmess p) S) era nmess := rfl

theorem forneyStep_getD (f : Field) (x : Nat) (v : List Nat) {j : Nat} (hj : j < v.length - 1) :
    (forneyStep f x v).getD j 0 = gfMul f (v.getD j 0) x ^^^ v.getD (j + 1) 0 := by
  rw [List.getD_eq_getElem _ _ (by rwa [forneyStep_length]), List.getD_eq_getElem _ _ (by omega),
    List.getD_eq_getElem _ _ (by omega)]
  simp [forneyStep]

/-! ### The order of the erasures (43_decoder_front R186) -/

theorem Field.Closed.forneyStep_lt {f : Field} {q : Nat} (hf : f.Closed q) {v : List Nat} (hv : ∀ c ∈ v, c < q)
    (x : Nat) : ∀ c ∈ forneyStep f x v, c < q :=
  forall_mem_zipWith fun a _ b hb => hf.xor_lt (hf.gfMul_lt a x) (hv b (List.mem_of_mem_tail hb))

section
variable {f : Field} {q : Nat} {A : Type*} [CommRing A] {v : Nat → A} (hv : f.Embeds q v)
include hv

theorem Field.Embeds.map_forneyStep_getD {x : Nat} (hx : x < q) {S : List Nat} (hS : ∀ c ∈ S, c < q) {j : Nat}
    (hj : j < S.length - 1) :
    v ((forneyStep f x S).getD j 0) = v (S.getD j 0) * v x + v (S.getD (j + 1) 0) := by
  have hlt := getD_lt_of_forall hv.pos hS
  rw [forneyStep_getD _ _ _ hj, hv.map_xor (hv.gfMul_lt ..) (hlt _), hv.map_mul (hlt j) hx]

/-- Two Forney steps commute: entry `j` is `a x y + b (x + y) + c` for the entries a, b, c from `j` on. -/
theorem Field.Embeds.forneyStep_comm {x y : Nat} (hx : x < q) (hy : y < q) {S : List Nat} (hS : ∀ c ∈ S, c < q) :
    forneyStep f x (forneyStep f y S) = forneyStep f y (forneyStep f x S) := by
  refine eq_of_getD (by simp only [forneyStep_length]) fun j hj => ?_
  simp only [forneyStep_length] at hj
  have hval {x y : Nat} (hx : x < q) (hy : y < q) : v ((forneyStep f x (forneyStep f y S)).getD j 0) =
      (v (S.getD j 0) * v y + v (S.getD (j + 1) 0)) * v x +
        (v (S.getD (j + 1) 0) * v y + v (S.getD (j + 1 + 1) 0)) := by
    rw [hv.map_forneyStep_getD hx (hv.forneyStep_lt hS y) (by rwa [forneyStep_length]),
      hv.map_forneyStep_getD hy hS (by omega), hv.map_forneyStep_getD hy hS (by omega)]
  have hsym (x y : Nat) : (forneyStep f x (forneyStep f y S)).getD j 0 < q :=
    getD_lt_of_forall hv.pos (hv.forneyStep_lt (hv.forneyStep_lt hS y) x) j
  refine hv.inj (hsym x y) (hsym y x) ?_
  rw [hval hx hy, hval hy hx]
  ring

/-- A permutation of the erasures is made of swaps of neighbours, so it keeps the result (R186, item 4). -/
theorem Field.Embeds.forney_perm {era era' : List Nat} (hp : era.Perm era') {S : List Nat} (hS : ∀ c ∈ S, c < q)
    (nmess : Nat) : forney f S era nmess = forney f S era' nmess := by
  induction hp generalizing S with
  | nil => rfl
  | cons p _ ih => exact ih (hv.forneyStep_lt hS _)
  | swap p p' era =>
    exact congrArg (forney f · era nmess) (hv.forneyStep_comm (hv.exp_lt _) (hv.exp_lt _) hS)
  | trans _ _ ih ih' => exact (ih hS).trans (ih' hS)

end

end Sys2Proof.Machine
end

section
/-! PROOFS. The statements of 43_decoder_front. -/

namespace Sys2Proof.Machine

/-- Settles O25: the length check, then the received block read up to its first bad entry, then the count of
erasures. -/
theorem loadResult : Obligations.LoadResult := by
  intro s hc L era
  refine ⟨fun hlong => configuredCommand_of_fail hc ?_, fun hle => ?_⟩
  · rw [loadBody, failIf_bind, if_pos hlong]
  have hread {e : Stop} {i : Nat} (hi : i < L) (hr : s.ReceivedReady i) (he : readReceived s i = .error e) :
      loadBody s = .error e := by
    rw [loadBody, failIf_bind, if_neg hle.not_gt,
      readRange_of_error_after hi (readReceived_of_ready hr) (by rwa [Nat.zero_add]), error_bind]
  have hload (hr : s.ReceivedReady L) : loadBody s = if s.cfg.nsym < era.length then .error (.fail .tooManyErasures)
      else .ok { s with
        mem := (s.mem.store .work
          ((List.range L).map fun i => if s.erasedAt i then 0 else s.symAt .inp i)).store .era era
        lenWork := s.lenIn
        numEra := zext32 era.length } := by
    rw [loadBody, failIf_bind, if_neg hle.not_gt, readReceived_of_ready hr, ok_bind, failIf_bind, zext32_word,
      s.workingCodeword_receivedOf, s.erasuresFrom_receivedOf, pure_eq_ok]
  refine ⟨fun i hi hr hn => ?_, fun i hb => ?_, fun hr he => ?_, fun hr he => ?_⟩
  · exact configuredCommand_of_fault hc (hread hi hr (readReceived_of_unwritten hn))
  · have ⟨hi, hr, _⟩ := hb
    exact configuredCommand_of_fail hc (hread hi hr (readReceived_of_bad hb))
  · exact configuredCommand_of_fail hc ((hload hr).trans (if_pos he))
  · exact configuredCommand_of_ok hc ((hload hr).trans (if_neg he.not_gt))

/-- Settles O26: the length check, then the codeword read up to its first bad entry, then its values. -/
theorem syndromeResult : Obligations.SyndromeResult := by
  intro s hc L
  refine ⟨fun hlong => configuredCommand_of_fail hc ?_, fun hle => ?_⟩
  · rw [syndromeBody, readNmess_of_gt hlong, error_bind]
  refine ⟨fun i hu => configuredCommand_of_fault hc ?_, fun i hb => configuredCommand_of_fail hc ?_,
    fun hr => configuredCommand_of_ok hc ?_⟩
  · rw [syndromeBody, readNmess_of_le hle, ok_bind, readSyms_of_unwritten hu, error_bind]
  · rw [syndromeBody, readNmess_of_le hle, ok_bind, readSyms_of_invalid hb, error_bind]
  · have hsyn : syndromes s.field s.cfg.nsym (s.symsOf .work L) = (List.range s.cfg.nsym).map fun i =>
        if L = 0 then 0 else polyEval s.field (s.symsOf .work L) (s.exp.getD i 0) := by
      simp only [syndromes, cwEval, s.symsOf_length]
      rfl
    rw [syndromeBody, readNmess_of_le hle, ok_bind, readSyms_of_ready hr, ok_bind, hsyn, pure_eq_ok]

/-- Settles O27: the three length checks, then the syndromes and the positions up to the first bad entry, then the
steps, of which each is one zip. -/
theorem forneySynResult : Obligations.ForneySynResult := by
  refine ⟨?_, fun f S era p nmess => ⟨rfl, forney_length f S era nmess, forneyStep f (locatorValue f nmess p) S,
    forney_cons f S p era nmess, forneyStep_length .., fun j hj => forneyStep_getD f _ S hj⟩⟩
  intro s hc nmess Ls e
  refine ⟨fun hn => ?_, fun hn hL => ?_, fun hn hL he => ?_, fun hn hL he => ?_⟩
  · exact configuredCommand_of_fail hc (by rw [forneySynBody, readNmess_of_gt hn, error_bind])
  · exact configuredCommand_of_fail hc
      (by rw [forneySynBody, readNmess_of_le hn, ok_bind, failIf_bind, if_pos hL])
  · exact configuredCommand_of_fail hc
      (by rw [forneySynBody, readNmess_of_le hn, ok_bind, failIf_bind, if_neg hL.not_gt, failIf_bind, if_pos he])
  have hbody := forneySynBody_of_le hn hL he
  refine ⟨fun i hu => ?_, fun i hb => ?_, fun i hS hu => ?_, fun i hS hb => ?_, fun hS hp => ?_⟩
  · exact configuredCommand_of_fault hc (by rw [hbody, readSyms_of_unwritten hu, error_bind])
  · exact configuredCommand_of_fail hc (by rw [hbody, readSyms_of_invalid hb, error_bind])
  · exact configuredCommand_of_fault hc
      (by rw [hbody, readSyms_of_ready hS, ok_bind, readPositions_of_unwritten hu, error_bind])
  · exact configuredCommand_of_fail hc
      (by rw [hbody, readSyms_of_ready hS, ok_bind, readPositions_of_bad hb, error_bind])
  · exact configuredCommand_of_ok hc
      (by rw [hbody, readSyms_of_ready hS, ok_bind, readPositions_of_ready hp, ok_bind, pure_eq_ok])

/-- Settles O28: the steps commute in the field of a primitive constant. -/
theorem forneyOrderIndependent : Obligations.ForneyOrderIndependent := by
  intro m prim h2 _ hlo hhi hprim q f S era era' nmess hS _ _ hperm
  have h : PrimitiveConstant m prim := ⟨h2, hlo, hhi, hprim⟩
  let _ := h.symbolRing
  have hv : f.Embeds q (toSymbol m) := h.embeds_toSymbol
  exact hv.forney_perm hperm hS nmess

end Sys2Proof.Machine
end

section
/-! SUPPORT. The rounds of Berlekamp-Massey, one equation per kind, the constant term they keep, and the commands BM and
CHIEN behind their length checks (44_locator R200 to R204). -/

namespace Sys2Proof.Machine

/-! ### The rounds of Berlekamp-Massey (44_locator R200) -/

/-- A loop that XORs a term in each round. -/
theorem repeatUpFrom_xor (t : Nat → Nat) (i k x : Nat) :
    repeatUpFrom (fun j a => a ^^^ t j) i k x = ((List.range' i k).map t).foldl (fun a b => a ^^^ b) x := by
  induction k generalizing i x with
  | zero => rfl
  | succ k ih => exact ih (i + 1) (x ^^^ t i)

/-- The discrepancy as one XOR over the coefficients of err below the constant term. -/
theorem discrepancy_eq_foldl (f : Field) (S err : List Nat) (i : Nat) :
    discrepancy f S err i =
      ((List.range (err.length - 1)).map fun j =>
        gfMul f (err.getD (err.length - 2 - j) 0) (S.getD (i - (j + 1)) 0)).foldl (fun a b => a ^^^ b) (S.getD i 0) := by
  rw [discrepancy, repeatUp, repeatUpFrom_xor, List.range'_eq_map_range, List.map_map]
  congr 2
  funext j
  rw [Function.comp_apply, Nat.add_comm 1 j, show err.length - 1 - (j + 1) = err.length - 2 - j by omega]

section
variable (f : Field) (S : List Nat) (i : Nat) {err old : List Nat}

theorem bmRound_of_zero (h : discrepancy f S err i = 0) : bmRound f S i (err, old) = (err, old ++ [0]) := by
  simp only [bmRound, h, ne_eq, not_true_eq_false, if_false]

/-- A round that folds old into err alone. -/
theorem bmRound_of_fold (h : discrepancy f S err i ≠ 0) (hl : (old ++ [0]).length ≤ err.length) :
    bmRound f S i (err, old) =
      (polyAdd err (polyScale f (old ++ [0]) (discrepancy f S err i)), old ++ [0]) := by
  simp only [bmRound, if_pos h, if_neg hl.not_gt]

/-- A round that swaps err and old, scaled, before it folds. -/
theorem bmRound_of_swap (h : discrepancy f S err i ≠ 0) (hl : err.length < (old ++ [0]).length) :
    bmRound f S i (err, old) =
      (polyAdd (polyScale f (old ++ [0]) (discrepancy f S err i))
        (polyScale f (polyScale f err (gfQuot f 1 (discrepancy f S err i))) (discrepancy f S err i)),
        polyScale f err (gfQuot f 1 (discrepancy f S err i))) := by
  simp only [bmRound, if_pos h, if_pos hl]

end

/-! ### The constant term (44_locator R202) -/

theorem padLeft_append_singleton (L : Nat) (p : List Nat) (a : Nat) :
    padLeft (L + 1) (p ++ [a]) = padLeft L p ++ [a] := by
  simp [padLeft]

/-- Addition aligns the constant terms (R141). -/
theorem polyAdd_append_singleton (p r : List Nat) (a b : Nat) :
    polyAdd (p ++ [a]) (r ++ [b]) = polyAdd p r ++ [a ^^^ b] := by
  have hL : max (p ++ [a]).length (r ++ [b]).length = max p.length r.length + 1 := by simp
  simp only [polyAdd, hL, padLeft_append_singleton]
  exact List.zipWith_append (by simp [padLeft_length])

theorem polyScale_append_singleton (f : Field) (p : List Nat) (a x : Nat) :
    polyScale f (p ++ [a]) x = polyScale f p x ++ [gfMul f a x] := by
  simp [polyScale]

/-- Scaling 1 by the inverse of a divisor and then by the divisor gives 1 (R115). -/
theorem PrimitiveConstant.gfMul_inverse_gfMul {m prim : Nat} (h : PrimitiveConstant m prim) {y : Nat} (hy : y ≠ 0) :
    gfMul (constField m prim) (gfMul (constField m prim) 1 (gfQuot (constField m prim) 1 y)) y = 1 := by
  rw [h.one_gfMul (h.closed.gfQuot_lt ..), gfMul_comm, h.gfMul_gfQuot h.one_lt hy]

/-- Under a primitive constant a round keeps the constant term 1 of err, whatever the syndromes: what old adds ends
in 0, and a swap scales err by the discrepancy's inverse and then by the discrepancy (R202, item 3). -/
theorem PrimitiveConstant.bmRound_getLast? {m prim : Nat} (h : PrimitiveConstant m prim) (S : List Nat) (i : Nat)
    {p : List Nat × List Nat} (hp : p.1.getLast? = some 1) :
    (bmRound (constField m prim) S i p).1.getLast? = some 1 := by
  obtain ⟨err, old⟩ := p
  obtain ⟨e, rfl⟩ := List.getLast?_eq_some_iff.1 hp
  by_cases hz : discrepancy (constField m prim) S (e ++ [1]) i = 0
  · rwa [bmRound_of_zero _ _ _ hz]
  rcases lt_or_ge (e ++ [1]).length (old ++ [0]).length with hl | hl
  · rw [bmRound_of_swap _ _ _ hz hl]
    simp only [polyScale_append_singleton, polyAdd_append_singleton, zero_gfMul, h.gfMul_inverse_gfMul hz, Nat.zero_xor,
      List.getLast?_concat]
  · rw [bmRound_of_fold _ _ _ hz hl]
    simp only [polyScale_append_singleton, polyAdd_append_singleton, zero_gfMul, Nat.xor_zero, List.getLast?_concat]

/-! ### BM and CHIEN behind their length checks (44_locator R201, R204) -/

theorem bmBody_of_le {s : State} (h : s.lenFsyn.toNat ≤ 65536) :
    bmBody s = (do
      let S ← readSyms s .fsyn s.lenFsyn.toNat
      let err := bmLocator s.field S
      failIf (s.lenFsyn.toNat < 2 * (err.length - 1)) .tooManyErrors
      pure { s with mem := s.mem.store .loc err, lenLoc := zext32 err.length }) := by
  rw [bmBody, failIf_bind, if_neg h.not_gt]

theorem chienBody_of_le {s : State} (h1 : 1 ≤ s.lenLoc.toNat) (h2 : s.lenLoc.toNat ≤ 65536)
    (hn : s.lenWork.toNat ≤ s.cfg.n) :
    chienBody s = (do
      let loc ← readSyms s .loc s.lenLoc.toNat
      let pos ← chien s.field loc s.lenWork.toNat
      pure { s with mem := s.mem.store .errpos pos, numErrpos := zext32 pos.length }) := by
  rw [chienBody, failIf_bind, if_neg (by omega), readNmess_of_le hn, ok_bind]

theorem chien_of_ne {f : Field} {loc : List Nat} {nmess : Nat}
    (h : (chienPositions f loc nmess).length ≠ loc.length - 1) :
    chien f loc nmess = .error (.fail .errorLocationFailure) := by
  rw [chien, failIf_bind, if_pos h]

theorem chien_of_eq {f : Field} {loc : List Nat} {nmess : Nat}
    (h : (chienPositions f loc nmess).length = loc.length - 1) :
    chien f loc nmess = .ok (chienPositions f loc nmess) := by
  rw [chien, failIf_bind, if_neg (not_not.2 h), pure_eq_ok]

end Sys2Proof.Machine
end

section
/-! PROOFS. The statements of 44_locator. -/

namespace Sys2Proof.Machine

/-- Settles O29: the length check, then the syndromes up to the first bad entry, then the count of located errors; the
rounds are the loop's, of which the last stands outermost. -/
theorem bmResult : Obligations.BmResult := by
  refine ⟨?_, fun _ => rfl, fun f S => ⟨fun i => repeatUp 0 i ([1], [1]) (bmRound f S), rfl, rfl, fun i _ => ?_⟩⟩
  · intro s hc L err
    refine ⟨fun hL => configuredCommand_of_fail hc ?_, fun hL => ?_⟩
    · rw [bmBody, failIf_bind, if_pos hL]
    have hbody := bmBody_of_le hL
    refine ⟨fun i hu => configuredCommand_of_fault hc ?_, fun i hb => configuredCommand_of_fail hc ?_,
      fun hr he => configuredCommand_of_fail hc ?_, fun hr he => configuredCommand_of_ok hc ?_⟩
    · rw [hbody, readSyms_of_unwritten hu, error_bind]
    · rw [hbody, readSyms_of_invalid hb, error_bind]
    · rw [hbody, readSyms_of_ready hr, ok_bind, failIf_bind, if_pos he]
    · rw [hbody, readSyms_of_ready hr, ok_bind, failIf_bind, if_neg he.not_gt, pure_eq_ok]
  · simp only [repeatUp_succ, ← discrepancy_eq_foldl]
    exact ⟨bmRound_of_zero f S i, bmRound_of_fold f S i, bmRound_of_swap f S i⟩

/-- Settles O30: the lengths are those of every round, and the constant term is kept by each kind of round. -/
theorem bmInvariants : Obligations.BmInvariants := by
  refine fun f S => ⟨fun i => (bm_lengths f S i).1, (bm_lengths f S S.length).1, ?_⟩
  rintro m prim h2 - hlo hhi hprim rfl - i -
  have h : PrimitiveConstant m prim := ⟨h2, hlo, hhi, hprim⟩
  exact repeatUp_invariant (P := fun p : List Nat × List Nat => p.1.getLast? = some 1) rfl
    fun j _ _ _ hp => h.bmRound_getLast? S j hp

/-- Settles O31: the two length checks, then the locator up to its first bad entry, then the count of its roots. -/
theorem chienResult : Obligations.ChienResult := by
  intro s hc Ll nmess pos
  refine ⟨fun hL => configuredCommand_of_fail hc ?_, fun h1 h2 hn => configuredCommand_of_fail hc ?_,
    fun h1 h2 hn => ?_⟩
  · rw [chienBody, failIf_bind, if_pos hL]
  · rw [chienBody, failIf_bind, if_neg (by omega), readNmess_of_gt hn, error_bind]
  have hbody := chienBody_of_le h1 h2 hn
  have hlen : (s.symsOf .loc Ll).length = Ll := s.symsOf_length ..
  refine ⟨fun i hu => configuredCommand_of_fault hc ?_, fun i hb => configuredCommand_of_fail hc ?_,
    fun hr hp => configuredCommand_of_fail hc ?_, fun hr hp => configuredCommand_of_ok hc ?_⟩
  · rw [hbody, readSyms_of_unwritten hu, error_bind]
  · rw [hbody, readSyms_of_invalid hb, error_bind]
  · rw [hbody, readSyms_of_ready hr, ok_bind, chien_of_ne (by rwa [hlen]), error_bind]
  · rw [hbody, readSyms_of_ready hr, ok_bind, chien_of_eq (by rwa [hlen]), ok_bind, pure_eq_ok]
    rfl

end Sys2Proof.Machine
end

section
/-! SUPPORT. CORRECT and VERIFY behind their length checks, the magnitudes all at once, and the functions of R220 and
R222 entry by entry (45_correction R220 to R223). -/

namespace Sys2Proof.Machine

/-! ### The functions of CORRECT (45_correction R220 to R222) -/

theorem allZero_iff {S : List Nat} : allZero S = true ↔ ∀ v ∈ S, v = 0 := by
  simp only [allZero, List.all_eq_true, beq_iff_eq]

theorem everySecond_length (p : List Nat) : (everySecond p).length = (p.length + 1) / 2 := by
  induction p using everySecond.induct with
  | case1 => rfl
  | case2 a => simp [everySecond]
  | case3 a b p ih => simp only [everySecond, List.length_cons, ih]; omega

theorem everySecond_getD (p : List Nat) (j : Nat) : (everySecond p).getD j 0 = p.getD (2 * j) 0 := by
  induction p using everySecond.induct generalizing j with
  | case1 => rfl
  | case2 a => cases j <;> rfl
  | case3 a b p ih =>
    cases j with
    | zero => rfl
    | succ j => exact ih j

theorem errataDerivative_length (lam : List Nat) : (errataDerivative lam).length = lam.length / 2 := by
  rw [errataDerivative, stride2, everySecond_length, List.length_drop, Nat.and_one_is_mod]
  omega

theorem errataDerivative_getD (lam : List Nat) (j : Nat) :
    (errataDerivative lam).getD j 0 = lam.getD (2 * j + lam.length % 2) 0 := by
  rw [errataDerivative, stride2, everySecond_getD, Nat.and_one_is_mod, Nat.add_comm]
  simp only [List.getD, List.getElem?_drop]

theorem errataLocator_append_singleton (f : Field) (pos : List Nat) (p nmess : Nat) :
    errataLocator f (pos ++ [p]) nmess = polyMul f (errataLocator f pos nmess) [locatorValue f nmess p, 1] := by
  simp [errataLocator]

theorem errataEvaluator_eq_drop (f : Field) (E : Nat) (S lam : List Nat) :
    errataEvaluator f E S lam =
      (polyMul f (S.take E).reverse lam).drop ((polyMul f (S.take E).reverse lam).length - E) := by
  rw [errataEvaluator, slice, List.take_of_length_le (List.length_drop ..).le]

theorem xorAt_eq_set (w : List Nat) (p v : Nat) : xorAt w p v = w.set p (w.getD p 0 ^^^ v) :=
  List.modify_eq_set ..

theorem applyErrata_nil (w vs : List Nat) : applyErrata w [] vs = w := by rw [applyErrata]; simp

section
variable (f : Field) (om der : List Nat) (nmess : Nat)

/-- The magnitudes are the quotients at the listed positions, where no denominator is 0. -/
theorem magnitudes_of_ne {pos : List Nat} (h : ∀ p ∈ pos, magnitudeDenominator f der nmess p ≠ 0) :
    magnitudes f om der nmess pos = .ok (pos.map fun p =>
      gfQuot f (polyEval f om (inverseLocator f nmess p)) (magnitudeDenominator f der nmess p)) := by
  induction pos with
  | nil => rfl
  | cons p ps ih =>
    obtain ⟨hp, hps⟩ := List.forall_mem_cons.1 h
    rw [magnitudes, magnitude, gfDiv_of_ne_zero _ _ hp, ok_bind, ih hps, ok_bind, pure_eq_ok, List.map_cons]

/-- Whatever comes before it, a zero denominator ends the magnitudes. -/
theorem magnitudes_of_zero {pos : List Nat} (h : ∃ p ∈ pos, magnitudeDenominator f der nmess p = 0) :
    magnitudes f om der nmess pos = .error (.fail .divisionByZero) := by
  induction pos with
  | nil => simp at h
  | cons p ps ih =>
    by_cases hp : magnitudeDenominator f der nmess p = 0
    · rw [magnitudes, magnitude, hp, gfDiv_zero, error_bind]
    · obtain ⟨q, hq, hz⟩ := h
      have hmem : q ∈ ps := (List.mem_cons.1 hq).resolve_left fun e => hp (e ▸ hz)
      rw [magnitudes, magnitude, gfDiv_of_ne_zero _ _ hp, ok_bind, ih ⟨q, hmem, hz⟩, error_bind]

end

/-! ### CORRECT and VERIFY behind their length checks (45_correction R222, R223) -/

/-- CORRECT with nothing to correct. -/
theorem correctBody_of_zero {s : State} (hn : s.lenWork.toNat ≤ s.cfg.n) (hL : s.lenSyn.toNat ≤ 65536)
    (hE : s.numEra.toNat + s.numErrpos.toNat = 0) : correctBody s = .ok s := by
  rw [correctBody, readNmess_of_le hn, ok_bind, failIf_bind, if_neg hL.not_gt, failIf_bind, if_neg (by omega)]
  exact if_pos hE

/-- What CORRECT does once its checks on lengths and counts pass. -/
theorem correctBody_of_le {s : State} (hn : s.lenWork.toNat ≤ s.cfg.n) (hL : s.lenSyn.toNat ≤ 65536)
    (he : s.numEra.toNat ≤ 65536) (hr : s.numErrpos.toNat ≤ 65536) (hE : s.numEra.toNat + s.numErrpos.toNat ≠ 0) :
    correctBody s = (do
      failIf (s.lenSyn.toNat < s.numEra.toNat + s.numErrpos.toNat) .operandRange
      let w ← readSyms s .work s.lenWork.toNat
      let S ← readSyms s .syn (s.numEra.toNat + s.numErrpos.toNat)
      let era ← readPositions s s.lenWork.toNat .era s.numEra.toNat
      let err ← readPositions s s.lenWork.toNat .errpos s.numErrpos.toNat
      let w ← correctedCodeword s.field w S (era ++ err) s.lenWork.toNat
      pure { s with mem := s.mem.store .work w }) := by
  rw [correctBody, readNmess_of_le hn, ok_bind, failIf_bind, if_neg hL.not_gt, failIf_bind, if_neg (by omega)]
  exact if_neg hE

theorem State.symsOf_take (s : State) (b : Buf) {L k : Nat} (hk : k ≤ L) : (s.symsOf b L).take k = s.symsOf b k := by
  rw [State.symsOf, ← List.map_take, List.take_range, min_eq_left hk, State.symsOf]

theorem writeMessage_symsOf (s : State) :
    writeMessage s s.lenWork.toNat (s.symsOf .work s.lenWork.toNat) =
      { s with
        mem := s.mem.store .out (s.symsOf .work (s.lenWork.toNat - s.cfg.nsym))
        lenOut := zext32 (s.lenWork.toNat - s.cfg.nsym) } := by
  rw [← s.symsOf_take .work (Nat.sub_le ..)]
  rfl

/-- What VERIFY does on a readable codeword. -/
theorem verifyBody_of_ready {s : State} (hn : s.lenWork.toNat ≤ s.cfg.n) (hr : s.SymsReady .work s.lenWork.toNat) :
    verifyBody s = if allZero (syndromes s.field s.cfg.nsym (s.symsOf .work s.lenWork.toNat)) = false
      then .error (.fail .correctionVerificationFailure)
      else .ok (writeMessage s s.lenWork.toNat (s.symsOf .work s.lenWork.toNat)) := by
  rw [verifyBody, readNmess_of_le hn, ok_bind, readSyms_of_ready hr, ok_bind, failIf_bind, pure_eq_ok]

end Sys2Proof.Machine
end

section
/-! PROOFS. The statements of 45_correction on CORRECT and VERIFY. -/

namespace Sys2Proof.Machine

/-- Settles O32: the checks on lengths and counts, then the four reads, each up to its first bad entry, then the
magnitudes, of which one is a quotient by 0 or all are quotients. -/
theorem correctResult : Obligations.CorrectResult := by
  refine ⟨?_, fun f pos S lam w vs nmess E p v => ⟨rfl, errataLocator_append_singleton f pos p nmess,
    errataEvaluator_eq_drop f E S lam, errataDerivative_length lam, fun j _ => errataDerivative_getD lam j,
    applyErrata_nil w [], by rw [applyErrata, xorAt_eq_set]⟩⟩
  intro s hc nmess Ls ne nr E pos lam om der xInv den quot
  refine ⟨fun hn => configuredCommand_of_fail hc ?_, fun hn hout => configuredCommand_of_fail hc ?_,
    fun hn hL hE => configuredCommand_of_ok hc (correctBody_of_zero hn hL hE), fun hn hL he hr hE => ?_⟩
  · rw [correctBody, readNmess_of_gt hn, error_bind]
  · rw [correctBody, readNmess_of_le hn, ok_bind, failIf_bind, failIf_bind]
    rcases hout with hL | hcount
    · rw [if_pos hL]
    · rw [if_pos hcount, ite_self]
  have hbody := correctBody_of_le hn hL he hr hE
  refine ⟨fun hlt => configuredCommand_of_fail hc ?_, fun hle => ?_⟩
  · rw [hbody, failIf_bind, if_pos hlt]
  rw [failIf_bind, if_neg hle.not_gt] at hbody
  refine ⟨fun i hu => configuredCommand_of_fault hc ?_, fun i hb => configuredCommand_of_fail hc ?_, fun hw => ?_⟩
  · rw [hbody, readSyms_of_unwritten hu, error_bind]
  · rw [hbody, readSyms_of_invalid hb, error_bind]
  rw [readSyms_of_ready hw, ok_bind] at hbody
  refine ⟨fun i hu => configuredCommand_of_fault hc ?_, fun i hb => configuredCommand_of_fail hc ?_, fun hS => ?_⟩
  · rw [hbody, readSyms_of_unwritten hu, error_bind]
  · rw [hbody, readSyms_of_invalid hb, error_bind]
  rw [readSyms_of_ready hS, ok_bind] at hbody
  refine ⟨fun i hu => configuredCommand_of_fault hc ?_, fun i hb => configuredCommand_of_fail hc ?_, fun hp => ?_⟩
  · rw [hbody, readPositions_of_unwritten hu, error_bind]
  · rw [hbody, readPositions_of_bad hb, error_bind]
  rw [readPositions_of_ready hp, ok_bind] at hbody
  refine ⟨fun i hu => configuredCommand_of_fault hc ?_, fun i hb => configuredCommand_of_fail hc ?_, fun hq => ?_⟩
  · rw [hbody, readPositions_of_unwritten hu, error_bind]
  · rw [hbody, readPositions_of_bad hb, error_bind]
  have hpos : pos.length = E := by simp [pos, E]
  rw [readPositions_of_ready hq, ok_bind, correctedCodeword, hpos] at hbody
  refine ⟨fun hz => configuredCommand_of_fail hc ?_, fun hnz => configuredCommand_of_ok hc ?_⟩
  · rw [hbody, magnitudes_of_zero _ _ _ _ hz, error_bind, error_bind]
  · rw [hbody, magnitudes_of_ne _ _ _ _ hnz, ok_bind, pure_eq_ok, ok_bind]
    rfl

/-- Settles O33: the length check, then the codeword read up to its first bad entry, then the syndromes. -/
theorem verifyResult : Obligations.VerifyResult := by
  intro s hc nmess S
  refine ⟨fun hn => configuredCommand_of_fail hc ?_, fun hn => ?_⟩
  · rw [verifyBody, readNmess_of_gt hn, error_bind]
  refine ⟨fun i hu => configuredCommand_of_fault hc ?_, fun i hb => configuredCommand_of_fail hc ?_,
    fun hr hS => configuredCommand_of_fail hc ?_, fun hr hS => configuredCommand_of_ok hc ?_⟩
  · rw [verifyBody, readNmess_of_le hn, ok_bind, readSyms_of_unwritten hu, error_bind]
  · rw [verifyBody, readNmess_of_le hn, ok_bind, readSyms_of_invalid hb, error_bind]
  · have hne : ¬ allZero S = true := fun h =>
      have ⟨v, hv, h0⟩ := hS
      h0 (allZero_iff.1 h v hv)
    rw [verifyBody_of_ready hn hr, if_pos (Bool.eq_false_iff.2 hne)]
  · rw [verifyBody_of_ready hn hr, if_neg (by rw [allZero_iff.2 hS]; decide), writeMessage_symsOf]

end Sys2Proof.Machine
end

section
/-! SUPPORT. What pseudocode neither reads nor writes, so that a change of it before a command is the same change after
it (30_encoding R91, 45_correction R233, item 4). -/

namespace Sys2Proof.Machine

/-! ### The surroundings of a command -/

/-- What no pseudocode reads or writes: STATUS's own fields, IE, PENDING, the host's side and the model's counters. -/
structure Surroundings where
  busy    : Bool
  done    : Bool
  ovr     : Bool
  code    : StatusCode
  ie      : Bool
  pending : Word
  host    : List HostOp
  reads   : List HostRead
  wait    : Nat
  free    : Nat

def State.surroundings (s : State) : Surroundings where
  busy := s.busy
  done := s.done
  ovr := s.ovr
  code := s.code
  ie := s.ie
  pending := s.pending
  host := s.host
  reads := s.reads
  wait := s.wait
  free := s.free

/-- The state with its surroundings changed by `g`. -/
def State.surround (g : Surroundings → Surroundings) (s : State) : State :=
  let a := g s.surroundings
  { s with
    busy := a.busy, done := a.done, ovr := a.ovr, code := a.code, ie := a.ie, pending := a.pending, host := a.host
    reads := a.reads, wait := a.wait, free := a.free }

/-- Completion is such a change (10_state R24). -/
theorem State.finish_eq_surround (s : State) (c : StatusCode) :
    s.finish c = s.surround fun a => { a with busy := false, done := true, code := c } := rfl

/-! ### Pseudocode commutes with it -/

/-- A change of the surroundings before the pseudocode is the same change after it, and how it ends is the same. -/
abbrev IgnoresSurroundings (body : State → Except Stop State) : Prop :=
  ∀ g s, body (s.surround g) = (body s).map (State.surround g)

/-- One line of pseudocode that reads the same in both states. -/
theorem bind_eq_map_bind {α : Type} {g : State → State} {x : Except Stop α} {k k' : α → Except Stop State}
    (h : ∀ a, k' a = (k a).map g) : x >>= k' = (x >>= k).map g := by
  cases x with
  | error e => rfl
  | ok a => exact h a

theorem ite_eq_map_ite {p : Prop} [Decidable p] {g : State → State} {x y x' y' : Except Stop State} (hx : x' = x.map g)
    (hy : y' = y.map g) : (if p then x' else y') = (if p then x else y).map g := by
  split
  · exact hx
  · exact hy

theorem IgnoresSurroundings.configured {body : State → Except Stop State} (h : IgnoresSurroundings body) :
    IgnoresSurroundings (fun s => do needConfigured s; body s) :=
  fun g s => bind_eq_map_bind fun _ => h g s

theorem ignores_pure : IgnoresSurroundings (fun s => pure s) := fun _ _ => rfl

theorem ignores_configureBody : IgnoresSurroundings configureBody := fun _ _ =>
  bind_eq_map_bind fun _ => bind_eq_map_bind fun _ => rfl

theorem ignores_gfMulBody : IgnoresSurroundings gfMulBody := fun _ _ =>
  bind_eq_map_bind fun _ => bind_eq_map_bind fun _ => rfl

theorem ignores_gfDivBody : IgnoresSurroundings gfDivBody := fun _ _ =>
  bind_eq_map_bind fun _ => bind_eq_map_bind fun _ => bind_eq_map_bind fun _ => rfl

theorem ignores_gfExpBody : IgnoresSurroundings gfExpBody := fun _ _ => bind_eq_map_bind fun _ => rfl

theorem ignores_gfLogBody : IgnoresSurroundings gfLogBody := fun _ _ =>
  bind_eq_map_bind fun _ => bind_eq_map_bind fun _ => rfl

theorem ignores_polyScaleBody : IgnoresSurroundings polyScaleBody := fun _ _ =>
  bind_eq_map_bind fun _ => bind_eq_map_bind fun _ => bind_eq_map_bind fun _ => rfl

theorem ignores_polyAddBody : IgnoresSurroundings polyAddBody := fun _ _ =>
  bind_eq_map_bind fun _ => bind_eq_map_bind fun _ => bind_eq_map_bind fun _ => bind_eq_map_bind fun _ => rfl

theorem ignores_polyMulBody : IgnoresSurroundings polyMulBody := fun _ _ =>
  bind_eq_map_bind fun _ => bind_eq_map_bind fun _ => bind_eq_map_bind fun _ => bind_eq_map_bind fun _ => rfl

theorem ignores_polyEvalBody : IgnoresSurroundings polyEvalBody := fun _ _ =>
  bind_eq_map_bind fun _ => bind_eq_map_bind fun _ => bind_eq_map_bind fun _ => rfl

theorem ignores_genPolyBody : IgnoresSurroundings genPolyBody := fun _ _ => rfl

theorem ignores_encodeBody : IgnoresSurroundings encodeBody := fun _ _ =>
  bind_eq_map_bind fun _ => bind_eq_map_bind fun _ => rfl

theorem ignores_loadBody : IgnoresSurroundings loadBody := fun _ _ =>
  bind_eq_map_bind fun _ => bind_eq_map_bind fun _ => bind_eq_map_bind fun _ => rfl

theorem ignores_syndromeBody : IgnoresSurroundings syndromeBody := fun _ _ =>
  bind_eq_map_bind fun _ => bind_eq_map_bind fun _ => rfl

theorem ignores_forneySynBody : IgnoresSurroundings forneySynBody := fun _ _ =>
  bind_eq_map_bind fun _ => bind_eq_map_bind fun _ => bind_eq_map_bind fun _ => bind_eq_map_bind fun _ =>
  bind_eq_map_bind fun _ => rfl

theorem ignores_bmBody : IgnoresSurroundings bmBody := fun _ _ =>
  bind_eq_map_bind fun _ => bind_eq_map_bind fun _ => bind_eq_map_bind fun _ => rfl

theorem ignores_chienBody : IgnoresSurroundings chienBody := fun _ _ =>
  bind_eq_map_bind fun _ => bind_eq_map_bind fun _ => bind_eq_map_bind fun _ => bind_eq_map_bind fun _ => rfl

theorem ignores_correctBody : IgnoresSurroundings correctBody := fun _ _ =>
  bind_eq_map_bind fun _ => bind_eq_map_bind fun _ => bind_eq_map_bind fun _ => ite_eq_map_ite rfl
    (bind_eq_map_bind fun _ => bind_eq_map_bind fun _ => bind_eq_map_bind fun _ => bind_eq_map_bind fun _ =>
      bind_eq_map_bind fun _ => bind_eq_map_bind fun _ => rfl)

theorem ignores_verifyBody : IgnoresSurroundings verifyBody := fun _ _ =>
  bind_eq_map_bind fun _ => bind_eq_map_bind fun _ => bind_eq_map_bind fun _ => rfl

theorem ignores_shortCircuit : IgnoresSurroundings shortCircuit := fun _ _ => bind_eq_map_bind fun _ => rfl

end Sys2Proof.Machine
end

section
/-! SUPPORT. Commands and DECODE's stages under changed surroundings, and the stages as commands run one after another
(45_correction R230, R232, R233, item 4). -/

namespace Sys2Proof.Machine

/-! ### Commands under changed surroundings (45_correction R233, item 4) -/

/-- A change of the state a command goes on in. -/
def mapNext (g : State → State) : Result → Result
  | .next t => .next (g t)
  | .fault f => .fault f
  | .refused e => .refused e

section
variable {g : Surroundings → Surroundings} (hg : ∀ s c, (State.surround g s).finish c = (s.finish c).surround g)
include hg

theorem command_surround {body : State → Except Stop State} (hb : IgnoresSurroundings body) (s : State) :
    command (s.surround g) body = mapNext (State.surround g) (command s body) := by
  rw [command, command, hb]
  rcases body s with (c | f) | t
  · exact congrArg _ (hg s c)
  · rfl
  · exact congrArg _ (hg t .ok)

theorem runStage_surround {stage : State → Except Stop State} {rest : State → Result} (hb : IgnoresSurroundings stage)
    (hrest : ∀ t, rest (t.surround g) = mapNext (State.surround g) (rest t)) (s : State) :
    runStage stage (s.surround g) rest = mapNext (State.surround g) (runStage stage s rest) := by
  rw [runStage, runStage, hb]
  rcases stage s with (c | f) | t
  · exact congrArg _ (hg s c)
  · rfl
  · exact hrest t

theorem decodeErrata_surround (s : State) :
    decodeErrata (s.surround g) = mapNext (State.surround g) (decodeErrata s) :=
  runStage_surround hg ignores_forneySynBody (fun _ => runStage_surround hg ignores_bmBody (fun _ =>
    runStage_surround hg ignores_chienBody (fun _ => runStage_surround hg ignores_correctBody (fun _ =>
    runStage_surround hg ignores_verifyBody (fun t => congrArg _ (hg t .ok)) _) _) _) _) s

theorem decodeStages_surround (s : State) :
    decodeStages (s.surround g) = mapNext (State.surround g) (decodeStages s) := by
  refine runStage_surround hg ignores_loadBody (fun _ => runStage_surround hg ignores_syndromeBody (fun u => ?_) _) s
  rw [show synAllZero (u.surround g) = synAllZero u from rfl]
  match synAllZero u with
  | .ok true => exact runStage_surround hg ignores_shortCircuit (fun t => congrArg _ (hg t .ok)) u
  | .ok false => exact decodeErrata_surround hg u
  | .error (.fail c) => exact congrArg _ (hg u c)
  | .error (.fault f) => rfl

theorem exec_surround (i : Instr) (s : State) :
    exec i (s.surround g) = mapNext (State.surround g) (exec i s) := by
  cases i with
  | nop => exact command_surround hg ignores_pure s
  | configure => exact command_surround hg ignores_configureBody s
  | gfMul => exact command_surround hg ignores_gfMulBody.configured s
  | gfDiv => exact command_surround hg ignores_gfDivBody.configured s
  | gfExp => exact command_surround hg ignores_gfExpBody.configured s
  | gfLog => exact command_surround hg ignores_gfLogBody.configured s
  | polyScale => exact command_surround hg ignores_polyScaleBody.configured s
  | polyAdd => exact command_surround hg ignores_polyAddBody.configured s
  | polyMul => exact command_surround hg ignores_polyMulBody.configured s
  | polyEval => exact command_surround hg ignores_polyEvalBody.configured s
  | genPoly => exact command_surround hg ignores_genPolyBody.configured s
  | encode => exact command_surround hg ignores_encodeBody.configured s
  | load => exact command_surround hg ignores_loadBody.configured s
  | syndrome => exact command_surround hg ignores_syndromeBody.configured s
  | forneySyn => exact command_surround hg ignores_forneySynBody.configured s
  | bm => exact command_surround hg ignores_bmBody.configured s
  | chien => exact command_surround hg ignores_chienBody.configured s
  | correct => exact command_surround hg ignores_correctBody.configured s
  | verify => exact command_surround hg ignores_verifyBody.configured s
  | decode => exact runStage_surround hg ignores_pure.configured (decodeStages_surround hg) s

end

/-! ### A stage as a command (45_correction R230) -/

theorem andThen_of_ok {t : State} (h : t.code = .ok) (next : State → Result) : andThen (.next t) next = next t :=
  if_pos h

theorem andThen_of_ne {t : State} (h : t.code ≠ .ok) (next : State → Result) : andThen (.next t) next = .next t :=
  if_neg h

/-- No stage fails with OK, so a command that completes with another code stops DECODE. -/
theorem andThen_configuredCommand {body : State → Except Stop State} {P : State → Prop} {s : State}
    (hc : s.configured = true) (hb : Ends (· ≠ .ok) P (body s)) (next : State → Result) :
    andThen (configuredCommand s body) next = runStage body s fun t => next (t.finish .ok) := by
  rw [configuredCommand_of_configured hc, command, runStage]
  generalize body s = r at hb
  cases hb with
  | ok h => exact andThen_of_ok rfl next
  | fail h => exact andThen_of_ne h next
  | fault f => rfl

/-- A stage takes no notice of a completion before it. -/
theorem runStage_finish {stage : State → Except Stop State} (hb : IgnoresSurroundings stage) (s : State)
    (c : StatusCode) (rest : State → Result) :
    runStage stage (s.finish c) rest = runStage stage s fun t => rest (t.finish c) := by
  rw [runStage, runStage, s.finish_eq_surround, hb]
  rcases stage s with (_ | _) | _ <;> rfl

/-- What follows a stage runs in a configured state if the stage does. -/
theorem runStage_congr {stage : State → Except Stop State} (hw : WritesCode stage) {s : State}
    (hc : s.configured = true) {rest rest' : State → Result}
    (h : ∀ t, stage s = .ok t → t.configured = true → rest t = rest' t) :
    runStage stage s rest = runStage stage s rest' := by
  rw [runStage, runStage]
  cases hs : stage s with
  | error e => cases e <;> rfl
  | ok t =>
    have hk : t.kept.configured = s.kept.configured := congrArg State.configured ((hw s).eq_ok hs).kept
    exact h t hs (hk.trans hc)

/-- A command run on what an earlier one completed on. -/
theorem andThen_finish {body : State → Except Stop State} {P : State → Prop} (hi : IgnoresSurroundings body)
    {s : State} (hc : s.configured = true) (hb : Ends (· ≠ .ok) P (body (s.finish .ok))) (next : State → Result) :
    andThen (configuredCommand (s.finish .ok) body) next = runStage body s fun t => next (t.finish .ok) := by
  rw [andThen_configuredCommand (s := s.finish .ok) hc hb, runStage_finish hi]
  rfl

theorem configuredCommand_eq_runStage {body : State → Except Stop State} {s : State} (hc : s.configured = true) :
    configuredCommand s body = runStage body s fun t => .next (t.finish .ok) := by
  rw [configuredCommand_of_configured hc]
  rfl

/-! ### The failure codes of the stages -/

theorem loadBody_fails (s : State) : Ends (· ≠ .ok) (fun _ => True) (loadBody s) :=
  (ends_failIf fun _ => nofun).bind fun _ _ => (ends_readReceived nofun).bind fun _ _ =>
    (ends_failIf fun _ => nofun).bind fun _ _ => .ok trivial

/-! ### The short-circuit (45_correction R230, R231) -/

theorem readRaw_of_written {s : State} {b : Buf} {L : Nat} (h : s.Written b L) :
    readRaw s b L = .ok (s.symsOf b L) := by
  rw [readRaw, readRange_of_all (g := s.symAt b), State.symsOf, List.range_eq_range']
  intro j hj
  rw [Nat.zero_add, readEntry_of_written h hj]
  rfl

theorem synAllZero_of_written {s : State} (h : s.Written .syn s.cfg.nsym) :
    synAllZero s = .ok (allZero (s.symsOf .syn s.cfg.nsym)) := by
  rw [synAllZero, readRaw_of_written h]
  rfl

theorem allZero_symsOf_iff (s : State) (b : Buf) (L : Nat) :
    allZero (s.symsOf b L) = true ↔ ∀ i < L, s.symAt b i = 0 := by
  simp only [allZero_iff, State.symsOf, List.forall_mem_map, List.mem_range]

theorem shortCircuit_of_written {s : State} (h : s.Written .work (s.lenWork.toNat - s.cfg.nsym)) :
    shortCircuit s = .ok { s with
      mem := s.mem.store .out (s.symsOf .work (s.lenWork.toNat - s.cfg.nsym))
      lenOut := zext32 (s.lenWork.toNat - s.cfg.nsym) } := by
  have htake : (s.symsOf .work (s.lenWork.toNat - s.cfg.nsym)).take (s.lenWork.toNat - s.cfg.nsym) =
      s.symsOf .work (s.lenWork.toNat - s.cfg.nsym) := s.symsOf_take .work le_rfl
  rw [shortCircuit, readRaw_of_written h, ok_bind, pure_eq_ok, writeMessage, htake]

/-- After SYNDROME the entries the short-circuit reads are written: SYN by it, and WORK, which it has read. -/
theorem syndromeBody_written {s t : State} (h : syndromeBody s = .ok t) :
    t.Written .syn t.cfg.nsym ∧ t.Written .work t.lenWork.toNat := by
  have hends : Ends (fun _ => True) (fun t => t.Written .syn t.cfg.nsym ∧ t.Written .work t.lenWork.toNat)
      (syndromeBody s) := by
    refine (ends_readNmess fun _ => trivial).bind fun _ hnm => (ends_readSyms fun _ => trivial).bind fun w ⟨hw, _⟩ => ?_
    subst hnm
    refine .ok ⟨fun i hi => ?_, fun i hi => Memory.entry?_store_isSome _ _ (hw.1 i hi)⟩
    rw [Memory.holds_store _ _ _ i (by rwa [syndromes_length])]
    rfl
  exact hends.eq_ok h

end Sys2Proof.Machine
end

section
/-! PROOFS. The statements of 45_correction on DECODE's stages and on a command's surroundings. -/

namespace Sys2Proof.Machine

/-- Settles O35: a stage and a command on the same state end alike, and a completion before a stage changes nothing it
reads. -/
theorem decodeIsItsStages : Obligations.DecodeIsItsStages := by
  intro s
  cases hc : s.configured with
  | false =>
    have hload : exec .load s = .next (s.finish .notConfigured) := configuredCommand_of_unconfigured hc _
    rw [hload]
    exact execDecode_of_unconfigured hc
  | true =>
    have any {c : StatusCode} {p : Prop} (h : c ≠ .ok := by decide) : p → c ≠ .ok := fun _ => h
    have hconf : (do needConfigured s; pure s : Except Stop State) = .ok s := by simp [needConfigured, hc]
    refine (runStage_of_ok (stage := fun s => do needConfigured s; pure s) hconf _).trans ((andThen_configuredCommand hc (loadBody_fails s) _).trans ?_).symm
    refine runStage_congr (writesCode_loadBody) hc fun t _ ht => ?_
    refine (andThen_finish ignores_syndromeBody ht (ends_syndromeBody any any) _).trans ?_
    refine runStage_congr writesCode_syndromeBody ht fun u hu hcu => ?_
    obtain ⟨hsyn, hwork⟩ := syndromeBody_written hu
    rw [synAllZero_of_written hsyn]
    by_cases hz : ∀ i < u.cfg.nsym, u.symAt .syn i = 0
    · rw [(allZero_symsOf_iff ..).2 hz]
      refine (if_pos hz).trans (Eq.symm ?_)
      exact runStage_of_ok (shortCircuit_of_written fun i hi => hwork i (by omega)) _
    · rw [Bool.eq_false_iff.2 (mt (allZero_symsOf_iff ..).1 hz)]
      refine (if_neg hz).trans ?_
      refine (andThen_finish ignores_forneySynBody hcu (ends_forneySynBody any any any any any) _).trans ?_
      refine runStage_congr writesCode_forneySynBody hcu fun v _ hcv => ?_
      refine (andThen_finish ignores_bmBody hcv (ends_bmBody any any nofun) _).trans ?_
      refine runStage_congr writesCode_bmBody hcv fun v _ hcv => ?_
      refine (andThen_finish ignores_chienBody hcv (ends_chienBody nofun any any nofun) _).trans ?_
      refine runStage_congr writesCode_chienBody hcv fun v _ hcv => ?_
      refine (andThen_finish ignores_correctBody hcv (ends_correctBody any nofun any (fun _ => any) nofun) _).trans ?_
      refine runStage_congr writesCode_correctBody hcv fun v _ hcv => ?_
      exact (configuredCommand_eq_runStage (s := v.finish .ok) hcv).trans (runStage_finish ignores_verifyBody v .ok _)

/-- Settles O60: the seven fields are part of what no pseudocode reads or writes, and completion writes none of
them. -/
theorem commandsIgnoreSurroundings : Obligations.CommandsIgnoreSurroundings := by
  intro i s ie ovr pending host reads wait free change
  have h := exec_surround (g := fun a => { a with
    ie := ie, ovr := ovr, pending := pending, host := host, reads := reads, wait := wait, free := free })
    (fun _ _ => rfl) i s
  refine h.trans ?_
  cases exec i s <;> rfl

end Sys2Proof.Machine
end

section
/-! SUPPORT. DECODE's stages when they end well: what each one leaves of a state whose LOAD ends well (45_correction R230,
R231). -/

namespace Sys2Proof.Machine

theorem syndromeBody_of_ready {s : State} (hn : s.lenWork.toNat ≤ s.cfg.n) (hr : s.SymsReady .work s.lenWork.toNat) :
    syndromeBody s = .ok (s.putSyn (syndromes s.field s.cfg.nsym (s.symsOf .work s.lenWork.toNat))) := by
  rw [syndromeBody, readNmess_of_le hn, ok_bind, readSyms_of_ready hr, ok_bind, State.putSyn, syndromes_length,
    pure_eq_ok]

theorem Loads.of_inv {s : State} (hs : s.Inv) (hc : s.configured = true) (hL : s.lenIn.toNat ≤ s.cfg.n)
    (hr : s.ReceivedReady s.lenIn.toNat) (he : s.decodeEra.length ≤ s.cfg.nsym) : Loads s := by
  obtain ⟨hp, hcfg, -⟩ := hs
  have hv : s.cfgValid = true := State.cfgInv_of_configured hc ▸ hcfg
  obtain ⟨hclosed, hone, hq⟩ := closed_of_cfgValid hp hv
  exact ⟨.of_cfgValid hp hv, hclosed, hone, hq, hL, hr, he⟩

section
variable {s : State} (hl : Loads s)
include hl

theorem Loads.loadBody_eq : loadBody s = .ok s.afterLoad := by
  rw [loadBody, failIf_bind, if_neg hl.len_le.not_gt, readReceived_of_ready hl.ready, ok_bind, failIf_bind, zext32_word]
  exact if_neg hl.era_le.not_gt

theorem Loads.syndromeBody_eq : syndromeBody s.afterLoad = .ok s.afterSyndrome := by
  have hW := hl.holds (bs := [.era, .work]) (by decide) .work (by decide)
  obtain ⟨hready, hsyms⟩ := hW.readBack (s := s.afterLoad) s.decodeWork_length hl.work_lt hl.q_le
  exact (syndromeBody_of_ready (s := s.afterLoad) hl.len_le hready).trans
    (congrArg (fun w => Except.ok (s.afterLoad.putSyn (syndromes s.field s.cfg.nsym w))) hsyms)

theorem Loads.synAllZero_eq : synAllZero s.afterSyndrome = .ok (allZero s.decodeSyn) := by
  have hS := hl.holds (bs := [.syn, .era, .work]) (by decide) .syn (by decide)
  obtain ⟨hready, hsyms⟩ := hS.readBack (s := s.afterSyndrome) s.decodeSyn_length hl.syn_lt hl.q_le
  exact (synAllZero_of_written hready.1).trans (congrArg (fun S => Except.ok (allZero S)) hsyms)

/-- The short-circuit copies what LOAD stored. -/
theorem Loads.shortCircuit_eq :
    shortCircuit s.afterSyndrome = .ok (writeMessage s.afterSyndrome s.lenIn.toNat s.decodeWork) := by
  have hW := hl.holds (bs := [.syn, .era, .work]) (by decide) .work (by decide)
  obtain ⟨hready, hsyms⟩ := hW.readBack (s := s.afterSyndrome) s.decodeWork_length hl.work_lt hl.q_le
  rw [shortCircuit_of_written fun i hi => hready.1 i (Nat.lt_of_lt_of_le hi (Nat.sub_le ..)), ← writeMessage_symsOf]
  exact congrArg (fun w => Except.ok (writeMessage s.afterSyndrome s.lenIn.toNat w)) hsyms

variable (hc : s.configured = true)
include hc

/-- A DECODE whose LOAD ends well goes on with the test of its syndromes. -/
theorem Loads.execDecode_eq : execDecode s =
    if allZero s.decodeSyn = true then .next ((writeMessage s.afterSyndrome s.lenIn.toNat s.decodeWork).finish .ok)
    else decodeErrata s.afterSyndrome := by
  have hconf : (do needConfigured s; pure s : Except Stop State) = .ok s := by simp [needConfigured, hc]
  rw [execDecode, runStage_of_ok hconf, decodeStages, runStage_of_ok hl.loadBody_eq, runStage_of_ok hl.syndromeBody_eq,
    hl.synAllZero_eq]
  cases allZero s.decodeSyn with
  | true => exact runStage_of_ok hl.shortCircuit_eq _
  | false => rfl

end

end Sys2Proof.Machine
end

section
/-! PROOFS. The statement of 45_correction on DECODE's short-circuit. -/

namespace Sys2Proof.Machine

/-- Settles O34: LOAD and SYNDROME end well on a readable block, and zero syndromes are the test that stops there. -/
theorem decodeShortCircuit : Obligations.DecodeShortCircuit := by
  intro s hs hc L era w hL hr he hS
  have hera : s.decodeEra = era := s.erasuresFrom_receivedOf L
  have hwork : s.decodeWork = w := s.workingCodeword_receivedOf L
  have hl : Loads s := .of_inv hs hc hL hr (hera ▸ he)
  have hzero : ∀ v ∈ s.decodeSyn, v = 0 := by rwa [State.decodeSyn, hwork]
  have hsyn : s.decodeSyn = List.replicate s.cfg.nsym 0 := List.eq_replicate_iff.2 ⟨s.decodeSyn_length, hzero⟩
  refine (hl.execDecode_eq hc).trans ((if_pos (allZero_iff.2 hzero)).trans ?_)
  simp only [writeMessage, State.afterSyndrome, State.decodeMem, State.decodeVals, hsyn, hera, hwork, List.length_replicate]
  rfl

end Sys2Proof.Machine
end

section
/-! SUPPORT. Sums of powers of distinct elements of a domain, and a sequence of symbols paired with a stretch of them
(44_locator R200, 45_correction R233). -/

namespace Sys2Proof.Machine

/-! ### Sums of powers -/

/-- Element `a` of the sequence with the values `g k` at the points `x k` of `T`: the sum of the g k x_k^a. -/
def powerSum {A : Type*} [CommRing A] (T : Finset Nat) (g x : Nat → A) (a : Nat) : A := ∑ k ∈ T, g k * x k ^ a

section
variable {A : Type*} [CommRing A] {T : Finset Nat} {g x : Nat → A}

/-- As many sums of powers as there are points determine the values, by Vandermonde's determinant. -/
theorem eq_zero_of_powerSum [IsDomain A] (hx : Set.InjOn x T) (h : ∀ a < T.card, powerSum T g x a = 0) :
    ∀ k ∈ T, g k = 0 := by
  have hzero := Matrix.eq_zero_of_forall_pow_sum_mul_pow_eq_zero (f := fun i => x (T.equivFin.symm i))
    (v := fun i => g (T.equivFin.symm i))
    (fun i j hij => T.equivFin.symm.injective (Subtype.ext (hx (Subtype.mem _) (Subtype.mem _) hij))) fun a => by
      rw [Equiv.sum_comp T.equivFin.symm fun k : T => g k * x k ^ (a : Nat), Finset.sum_coe_sort T fun k => g k * x k ^ (a : Nat)]
      exact h a a.2
  intro k hk
  simpa using congrFun hzero (T.equivFin ⟨k, hk⟩)

theorem powerSum_congr {g' : Nat → A} (h : ∀ k ∈ T, g k = g' k) (a : Nat) : powerSum T g x a = powerSum T g' x a :=
  Finset.sum_congr rfl fun k hk => by rw [h k hk]

/-- Points with value 0 do not count. -/
theorem powerSum_subset {T' : Finset Nat} (hs : T' ⊆ T) (h : ∀ k ∈ T, k ∉ T' → g k = 0) (a : Nat) :
    powerSum T' g x a = powerSum T g x a :=
  Finset.sum_subset hs fun k hk hk' => by rw [h k hk hk', zero_mul]

end

/-! ### A sequence of symbols against a stretch of another sequence -/

/-- The sequence `p` of symbols paired with `d` from index `a` on: the sum of the p_j d_(a + j). -/
def window {A : Type*} [CommRing A] (v : Nat → A) (d : Nat → A) (a : Nat) (p : List Nat) : A :=
  ∑ j ∈ Finset.range p.length, v (p.getD j 0) * d (a + j)

section
variable {A : Type*} [CommRing A] {v d : Nat → A}

theorem window_nil (a : Nat) : window v d a [] = 0 := rfl

theorem window_cons (a c : Nat) (p : List Nat) : window v d a (c :: p) = v c * d a + window v d (a + 1) p := by
  rw [window, List.length_cons, Finset.sum_range_succ', add_comm]
  simp only [List.getD_cons_zero, List.getD_cons_succ, Nat.add_zero, window, Nat.add_assoc, Nat.add_comm 1]

theorem window_append (a : Nat) (p r : List Nat) :
    window v d a (p ++ r) = window v d a p + window v d (a + p.length) r := by
  induction p generalizing a with
  | nil => rw [window_nil, zero_add]; rfl
  | cons c p ih =>
    rw [List.cons_append, window_cons, window_cons, ih, List.length_cons, Nat.add_right_comm, Nat.add_assoc, add_assoc]

/-- Against a sum of powers, a sequence is its values at the points. -/
theorem window_powerSum (T : Finset Nat) (g x : Nat → A) (a : Nat) (p : List Nat) :
    window v (powerSum T g x) a p = powerSum T (fun k => g k * window v (x k ^ ·) 0 p) x a := by
  simp only [window, powerSum, Finset.mul_sum, Finset.sum_mul]
  rw [Finset.sum_comm]
  refine Finset.sum_congr rfl fun k _ => Finset.sum_congr rfl fun j _ => ?_
  rw [Nat.zero_add, pow_add]
  ring

/-- Read from its other end, a sequence has its value at the inverse. -/
theorem horner_mul_pow {t y : A} (ht : t * y = 1) (p : List Nat) :
    horner v t p * y ^ p.length = window v (y ^ ·) 0 p * y := by
  induction p using List.reverseRecOn with
  | nil => rw [window_nil, zero_mul]; exact zero_mul _
  | append_singleton p c ih =>
    rw [horner_append_singleton, window_append, window_cons, window_nil, List.length_append, List.length_singleton,
      Nat.zero_add, add_mul (window v _ 0 p), ← ih]
    linear_combination horner v t p * y ^ p.length * ht

section
variable [IsDomain A] {T : Finset Nat} {g x : Nat → A} (hx : Set.InjOn x T) {p : List Nat}
  (h : ∀ a < T.card, window v (powerSum T g x) a p = 0)
include hx h

/-- A sequence that is 0 against as many stretches as there are points is 0 at each point. -/
theorem mul_window_eq_zero {k : Nat} (hk : k ∈ T) : g k * window v (x k ^ ·) 0 p = 0 :=
  eq_zero_of_powerSum hx (fun a ha => (window_powerSum ..).symm.trans (h a ha)) k hk

/-- Such a sequence is 0 against every stretch. -/
theorem window_eq_zero (a : Nat) : window v (powerSum T g x) a p = 0 := by
  rw [window_powerSum, powerSum, Finset.sum_eq_zero]
  intro k hk
  rw [mul_window_eq_zero hx h hk, zero_mul]

end

section
variable {f : Field} {q : Nat} (hv : f.Embeds q v)
include hv

theorem Field.Embeds.window_zeros_append (a L : Nat) (p : List Nat) :
    window v d a (zeros L ++ p) = window v d (a + L) p := by
  rw [window_append, zeros_length, window, Finset.sum_eq_zero, zero_add]
  intro j _
  rw [zeros_getD, hv.map_zero, zero_mul]

theorem Field.Embeds.window_append_zero (a : Nat) (p : List Nat) : window v d a (p ++ [0]) = window v d a p := by
  rw [window_append, window_cons, window_nil, hv.map_zero, zero_mul, add_zero, add_zero]

theorem Field.Embeds.window_zipWith_xor {p r : List Nat} (hl : p.length = r.length) (hp : ∀ c ∈ p, c < q)
    (hr : ∀ c ∈ r, c < q) (a : Nat) :
    window v d a (List.zipWith (fun a b => a ^^^ b) p r) = window v d a p + window v d a r := by
  induction p generalizing a r with
  | nil =>
    obtain rfl := List.length_eq_zero_iff.1 hl.symm
    exact (add_zero _).symm
  | cons c p ih =>
    cases r with
    | nil => simp at hl
    | cons e r =>
      simp only [List.forall_mem_cons] at hp hr
      rw [List.zipWith_cons_cons, window_cons, window_cons, window_cons, ih (by simpa using hl) hp.2 hr.2,
        hv.map_xor hp.1 hr.1]
      ring

/-- A sum aligned at the last coefficient (41_polynomial R141). -/
theorem Field.Embeds.window_polyAdd {p r : List Nat} (hl : r.length ≤ p.length) (hp : ∀ c ∈ p, c < q)
    (hr : ∀ c ∈ r, c < q) (a : Nat) :
    window v d a (polyAdd p r) = window v d a p + window v d (a + (p.length - r.length)) r := by
  rw [polyAdd, max_eq_left hl, hv.window_zipWith_xor (by simp [padLeft_length, hl]) (hv.padLeft_lt _ hp)
    (hv.padLeft_lt _ hr), padLeft, padLeft, hv.window_zeros_append, hv.window_zeros_append, Nat.sub_self, Nat.add_zero]

theorem Field.Embeds.window_polyScale {p : List Nat} (hp : ∀ c ∈ p, c < q) {y : Nat} (hy : y < q) (a : Nat) :
    window v d a (polyScale f p y) = window v d a p * v y := by
  rw [window, window, polyScale_length, Finset.sum_mul]
  refine Finset.sum_congr rfl fun j _ => ?_
  rw [polyScale_getD, hv.map_mul (getD_lt_of_forall hv.pos hp j) hy]
  ring

end

end

end Sys2Proof.Machine
end

section
/-! SUPPORT. The field of a primitive constant as a domain of characteristic 2 in which EXP lists the powers of one
element (40_field_engine R113, R121). -/

namespace Sys2Proof.Machine

/-- The field is embedded with its 1 and its quotients, and EXP lists the powers of `α`, of which the first n are
distinct and the n-th is 1. -/
structure Field.Generated (f : Field) (q : Nat) {A : Type*} [CommRing A] (v : Nat → A) (α : A) : Prop
    extends f.Embeds q v where
  one_lt   : 1 < q
  map_one  : v 1 = 1
  map_quot : ∀ {x y}, x < q → y < q → y ≠ 0 → v (gfQuot f x y) * v y = v x
  map_exp  : ∀ {i}, i ≤ f.n → v (f.expAt i) = α ^ i
  order    : α ^ f.n = 1
  pow_inj  : ∀ {i j}, i < f.n → j < f.n → α ^ i = α ^ j → i = j

section
variable {m prim : Nat} (h : PrimitiveConstant m prim)
include h

theorem PrimitiveConstant.isDomain : @IsDomain (Symbol m) h.symbolRing.toSemiring := by
  let _ := h.symbolRing
  have : Nontrivial (Symbol m) := ⟨0, 1, fun he => Nat.zero_ne_one (congrArg Subtype.val he)⟩
  have : NoZeroDivisors (Symbol m) := ⟨fun {x y} hxy => by
    have hmul : gfMul (constField m prim) x.1 y.1 = 0 := congrArg Subtype.val hxy
    by_contra hne
    obtain ⟨hx, hy⟩ := not_or.1 hne
    have hx : x.1 ≠ 0 := fun h0 => hx (Subtype.ext h0)
    refine hy (Subtype.ext (h.gfMul_left_cancel hx y.2 h.closed.pos (hmul.trans (gfMul_zero ..).symm)))⟩
  exact NoZeroDivisors.to_isDomain _

theorem PrimitiveConstant.gfMul_expAt {i : Nat} (hi : i + 1 ≤ 2 ^ m - 1) :
    gfMul (constField m prim) ((constField m prim).expAt i) ((constField m prim).expAt 1) =
      (constField m prim).expAt (i + 1) := by
  have hn := h.three_le_order
  have hne {j : Nat} (hj : j < 2 ^ m - 1) : (constField m prim).expAt j ≠ 0 := by
    rw [h.expAt_eq_iterate (by omega)]
    have := h.primitive.2 _ (mem_powersFrom_iff.2 ⟨j, hj, rfl⟩)
    omega
  have hlog {j : Nat} (hj : j < 2 ^ m - 1) : (constField m prim).logAt ((constField m prim).expAt j) = j :=
    h.primitive.log_exp hj
  rw [gfMul, if_neg (by simp [hne (j := i) (by omega), hne (j := 1) (by omega)]), hlog (by omega), hlog (by omega)]

theorem PrimitiveConstant.expAt_inj {i j : Nat} (hi : i < 2 ^ m - 1) (hj : j < 2 ^ m - 1)
    (he : (constField m prim).expAt i = (constField m prim).expAt j) : i = j := by
  rw [h.expAt_eq_iterate (by omega), h.expAt_eq_iterate (by omega)] at he
  exact h.primitive.iterate_inj hi hj he

/-- A primitive constant's symbols are such a domain, with α = EXP[1]. -/
theorem PrimitiveConstant.generated :
    @Field.Generated (constField m prim) (2 ^ m) (Symbol m) h.symbolRing (toSymbol m)
      (toSymbol m ((constField m prim).expAt 1)) := by
  let _ := h.symbolRing
  have hv := h.embeds_toSymbol
  have hn := h.three_le_order
  have hone : toSymbol m 1 = 1 := Subtype.ext (Nat.mod_eq_of_lt h.one_lt)
  have hexp {i : Nat} (hi : i ≤ 2 ^ m - 1) :
      toSymbol m ((constField m prim).expAt i) = toSymbol m ((constField m prim).expAt 1) ^ i := by
    induction i with
    | zero => rw [h.expAt_eq_iterate (by omega), pow_zero]; exact hone
    | succ i ih => rw [← h.gfMul_expAt hi, hv.map_mul (hv.exp_lt _) (hv.exp_lt _), ih (by omega), pow_succ]
  refine ⟨hv, h.one_lt, hone, fun hx hy hy0 => ?_, hexp, ?_, fun hi hj he => ?_⟩
  · rw [mul_comm, ← hv.map_mul hy (hv.gfQuot_lt ..), h.gfMul_gfQuot hx hy0]
  · refine (hexp le_rfl).symm.trans ?_
    rw [h.expAt_eq_iterate (by omega), h.doubled_iterate_order, hone]
  · rw [← hexp (le_of_lt hi), ← hexp (le_of_lt hj)] at he
    exact h.expAt_inj hi hj (hv.inj (hv.exp_lt _) (hv.exp_lt _) he)

end

section
variable {A : Type*} [CommRing A] {v : Nat → A} {α : A} {f : Field} {q : Nat} (hg : f.Generated q v α)
include hg

/-- XOR is its own inverse, so the ring has characteristic 2. -/
theorem Field.Generated.add_self (x : A) : x + x = 0 := by
  have hone := hg.map_xor hg.one_lt hg.one_lt
  rw [Nat.xor_self, hg.map_zero, hg.map_one] at hone
  linear_combination -x * hone

theorem Field.Generated.eq_of_add_eq_zero {x y : A} (h : x + y = 0) : x = y := by
  linear_combination h - hg.add_self y

theorem Field.Generated.eq_zero_of_map {x : Nat} (hx : x < q) (h : v x = 0) : x = 0 :=
  hg.inj hx hg.pos (h.trans hg.map_zero.symm)

end

end Sys2Proof.Machine
end

section
/-! SUPPORT. Berlekamp-Massey finds the shortest recurrence: what its two sequences are against a sum of powers after
each round, and that the locator of a sum of few powers is 0 at each of its points (44_locator R200, R202). -/

namespace Sys2Proof.Machine

/-- `err` and `old` after `i` rounds on the sequence `d`, a sum of at most `size` powers.  Against the stretches of `d`
that end before index `i`, err is 0; against the stretches from an index `t` with t + 2 up to err's length, old is 0 but
for the last of them. -/
structure BmInvariant {A : Type*} [CommRing A] (q : Nat) (v d : Nat → A) (size i : Nat) (err old : List Nat) : Prop where
  err_lt   : ∀ c ∈ err, c < q
  old_lt   : ∀ c ∈ old, c < q
  last     : err.getLast? = some 1
  old_pos  : 1 ≤ old.length
  len      : err.length + old.length = i + 2
  le_size  : err.length ≤ size + 1
  err_zero : ∀ t, t + err.length ≤ i → window v d t err = 0
  old_unit : ∀ t, t + 2 ≤ err.length → window v d t old = if t + 2 = err.length then 1 else 0

theorem one_le_length_of_getLast? {p : List Nat} {c : Nat} (h : p.getLast? = some c) : 1 ≤ p.length := by
  cases p with
  | nil => cases h
  | cons => exact Nat.le_add_left ..

section
variable {A : Type*} [CommRing A] {v d : Nat → A} {α : A} {f : Field} {q : Nat} (hg : f.Generated q v α)
  {S : List Nat} (hS : ∀ c ∈ S, c < q) (hd : ∀ a < S.length, v (S.getD a 0) = d a)
include hg

theorem Field.Generated.bmInvariant_zero (size : Nat) : BmInvariant q v d size 0 [1] [1] where
  err_lt := List.forall_mem_singleton.2 hg.one_lt
  old_lt := List.forall_mem_singleton.2 hg.one_lt
  last := rfl
  old_pos := le_rfl
  len := rfl
  le_size := Nat.le_add_left ..
  err_zero t h := absurd h (Nat.not_succ_le_zero t)
  old_unit t h := absurd h (by simp)

include hS hd

/-- The discrepancy is err against the stretch that ends at `i`. -/
theorem Field.Generated.map_discrepancy {err : List Nat} (herr : ∀ c ∈ err, c < q) (hlast : err.getLast? = some 1)
    {i : Nat} (hi : i < S.length) (hl : err.length ≤ i + 1) :
    v (discrepancy f S err i) = window v d (i + 1 - err.length) err := by
  have hpos := one_le_length_of_getLast? hlast
  have hE := getD_lt_of_forall hg.pos herr
  have hS' := getD_lt_of_forall hg.pos hS
  have hlead : err.getD (err.length - 1) 0 = 1 := by
    rw [List.getLast?_eq_getElem?] at hlast
    rw [List.getD, hlast, Option.getD_some]
  have hloop := repeatUp_induct (lo := 1) (hi := err.length) (x := S.getD i 0)
    (body := fun j δ => δ ^^^ gfMul f (err.getD (err.length - 1 - j) 0) (S.getD (i - j) 0))
    (P := fun j δ => δ < q ∧ v δ = ∑ l ∈ Finset.range j, v (err.getD (err.length - 1 - l) 0) * d (i - l))
    hpos ⟨hS' i, by
      rw [Finset.sum_range_one, Nat.sub_zero, hlead, hg.map_one, one_mul, Nat.sub_zero, hd i hi]⟩
    fun j δ _ _ ⟨hlt, hsum⟩ => ⟨hg.xor_lt hlt (hg.gfMul_lt ..), by
      rw [Finset.sum_range_succ, ← hsum, hg.map_xor hlt (hg.gfMul_lt ..), hg.map_mul (hE _) (hS' _),
        hd (i - j) (by omega)]⟩
  rw [window, discrepancy, hloop.2, ← Finset.sum_range_reflect]
  refine Finset.sum_congr rfl fun j hj => ?_
  have hj := Finset.mem_range.1 hj
  rw [show err.length - 1 - (err.length - 1 - j) = j by omega,
    show i - (err.length - 1 - j) = i + 1 - err.length + j by omega]

end

/-! ### The three kinds of round (44_locator R200) -/

section
variable {A : Type*} [CommRing A] {v d : Nat → A} {α : A} {f : Field} {q : Nat} (hg : f.Generated q v α)
  {size i δ : Nat} {err old : List Nat} (h : BmInvariant q v d size i err old)
include hg h

/-- A round without discrepancy: the next stretch is 0 as well. -/
theorem Field.Generated.bmInvariant_of_zero (hδ : window v d (i + 1 - err.length) err = 0) :
    BmInvariant q v d size (i + 1) err (old ++ [0]) := by
  have hlen := h.len
  have hpos := h.old_pos
  refine ⟨h.err_lt, List.forall_mem_append.2 ⟨h.old_lt, List.forall_mem_singleton.2 hg.pos⟩, h.last, by simp,
    by rw [List.length_append, List.length_singleton]; omega, h.le_size, fun t ht => ?_, fun t ht => ?_⟩
  · rcases Nat.lt_or_eq_of_le ht with hlt | heq
    · exact h.err_zero t (Nat.le_of_lt_succ hlt)
    · rwa [show t = i + 1 - err.length by omega]
  · rw [hg.window_append_zero, h.old_unit t ht]

variable (hlt : δ < q) (hδ : v δ = window v d (i + 1 - err.length) err)
include hlt hδ

/-- A round that folds: old is 0 where err still is, and takes the discrepancy away where it is 1. -/
theorem Field.Generated.bmInvariant_of_fold (hl : old.length + 1 ≤ err.length)
    (hlast : (polyAdd err (polyScale f (old ++ [0]) δ)).getLast? = some 1) :
    BmInvariant q v d size (i + 1) (polyAdd err (polyScale f (old ++ [0]) δ)) (old ++ [0]) := by
  have hlen := h.len
  have hpos := h.old_pos
  have hold : ∀ c ∈ old ++ [0], c < q := List.forall_mem_append.2 ⟨h.old_lt, List.forall_mem_singleton.2 hg.pos⟩
  have hscaled := hg.polyScale_lt (old ++ [0]) δ
  have hlen0 : (old ++ [0]).length = old.length + 1 := by simp
  have hlen' : (polyAdd err (polyScale f (old ++ [0]) δ)).length = err.length := by
    rw [polyAdd_length, polyScale_length, hlen0, max_eq_left hl]
  refine ⟨hg.polyAdd_lt h.err_lt hscaled, hold, hlast, by simp, by omega, hlen'.le.trans h.le_size, fun t ht => ?_,
    fun t ht => ?_⟩
  · rw [hlen'] at ht
    rw [hg.window_polyAdd (by rw [polyScale_length, hlen0]; exact hl) h.err_lt hscaled, hg.window_polyScale hold hlt,
      hg.window_append_zero, polyScale_length, hlen0, h.old_unit _ (by omega)]
    rcases Nat.lt_or_eq_of_le ht with hlt | heq
    · rw [if_neg (by omega), h.err_zero t (by omega), zero_mul, add_zero]
    · rw [if_pos (by omega), one_mul, show t = i + 1 - err.length by omega, ← hδ, hg.add_self]
  · rw [hlen'] at ht ⊢
    rw [hg.window_append_zero, h.old_unit t ht]

/-- A round that swaps: err over the discrepancy is 1 against the last stretch, and the sum as in a fold. -/
theorem Field.Generated.bmInvariant_of_swap (h0 : δ ≠ 0) (hl : err.length < old.length + 1) (hsize : old.length ≤ size)
    (hlast : (polyAdd (polyScale f (old ++ [0]) δ) (polyScale f (polyScale f err (gfQuot f 1 δ)) δ)).getLast? = some 1) :
    BmInvariant q v d size (i + 1)
      (polyAdd (polyScale f (old ++ [0]) δ) (polyScale f (polyScale f err (gfQuot f 1 δ)) δ))
      (polyScale f err (gfQuot f 1 δ)) := by
  have hlen := h.len
  have hpos := one_le_length_of_getLast? h.last
  have hold : ∀ c ∈ old ++ [0], c < q := List.forall_mem_append.2 ⟨h.old_lt, List.forall_mem_singleton.2 hg.pos⟩
  have hscaled := hg.polyScale_lt (old ++ [0]) δ
  have hinvlt := hg.gfQuot_lt 1 δ
  have hinv : v (gfQuot f 1 δ) * v δ = 1 := (hg.map_quot hg.one_lt hlt h0).trans hg.map_one
  have hnew := hg.polyScale_lt err (gfQuot f 1 δ)
  have hnew' := hg.polyScale_lt (polyScale f err (gfQuot f 1 δ)) δ
  have hlen0 : (polyScale f (old ++ [0]) δ).length = old.length + 1 := by simp
  have hlenr : (polyScale f (polyScale f err (gfQuot f 1 δ)) δ).length = err.length := by simp
  have hlen' : (polyAdd (polyScale f (old ++ [0]) δ) (polyScale f (polyScale f err (gfQuot f 1 δ)) δ)).length =
      old.length + 1 := by rw [polyAdd_length, hlen0, hlenr, max_eq_left hl.le]
  refine ⟨hg.polyAdd_lt hscaled hnew', hnew, hlast, by rwa [polyScale_length], by rw [hlen', polyScale_length]; omega,
    by omega, fun t ht => ?_, fun t ht => ?_⟩
  · rw [hlen'] at ht
    rw [hg.window_polyAdd (by omega) hscaled hnew', hg.window_polyScale hold hlt, hg.window_append_zero,
      hg.window_polyScale hnew hlt, hg.window_polyScale h.err_lt hinvlt, mul_assoc, hinv, mul_one, hlen0, hlenr,
      h.old_unit t (by omega)]
    split
    · next ht => rw [one_mul, show t + (old.length + 1 - err.length) = i + 1 - err.length by omega, ← hδ, hg.add_self]
    · next ht => rw [zero_mul, h.err_zero _ (by omega), add_zero]
  · rw [hlen'] at ht ⊢
    rw [hg.window_polyScale h.err_lt hinvlt]
    split
    · next ht => rw [show t = i + 1 - err.length by omega, ← hδ, mul_comm, hinv]
    · next ht => rw [h.err_zero t (by omega), zero_mul]

end

/-! ### All rounds -/

section
variable {A : Type*} [CommRing A] [IsDomain A] {v g x : Nat → A} {α : A} {f : Field} {q : Nat}
  (hg : f.Generated q v α) {T : Finset Nat} (hx : Set.InjOn x T) {S : List Nat} (hS : ∀ c ∈ S, c < q)
  (hd : ∀ a < S.length, v (S.getD a 0) = powerSum T g x a)
include hg hx hS hd

/-- A round keeps the invariant.  A swap never makes err longer than there are points: err would be 0 against as many
stretches as there are points, so against all of them, and there would be no discrepancy. -/
theorem Field.Generated.bmInvariant_succ {i : Nat} {p : List Nat × List Nat} (hi : i < S.length)
    (h : BmInvariant q v (powerSum T g x) T.card i p.1 p.2) (hlast : (bmRound f S i p).1.getLast? = some 1) :
    BmInvariant q v (powerSum T g x) T.card (i + 1) (bmRound f S i p).1 (bmRound f S i p).2 := by
  obtain ⟨err, old⟩ := p
  dsimp only at h
  have hlen := h.len
  have hpos := h.old_pos
  have hδ := hg.map_discrepancy hS hd h.err_lt h.last hi (by omega)
  have hlt : discrepancy f S err i < q := repeatUp_invariant (P := (· < q)) (getD_lt_of_forall hg.pos hS i)
    fun _ _ _ _ hy => hg.xor_lt hy (hg.gfMul_lt ..)
  by_cases h0 : discrepancy f S err i = 0
  · rw [bmRound_of_zero f S i h0]
    exact hg.bmInvariant_of_zero h (by rw [← hδ, h0, hg.map_zero])
  have hlen0 : (old ++ [0]).length = old.length + 1 := by simp
  rcases lt_or_ge err.length (old ++ [0]).length with hl | hl
  · rw [bmRound_of_swap f S i h0 hl] at hlast ⊢
    refine hg.bmInvariant_of_swap h hlt hδ h0 (hlen0 ▸ hl) ?_ hlast
    by_contra hlong
    exact h0 (hg.eq_zero_of_map hlt (hδ.trans (window_eq_zero hx (fun a ha => h.err_zero a (by omega)) _)))
  · rw [bmRound_of_fold f S i h0 hl] at hlast ⊢
    exact hg.bmInvariant_of_fold h hlt hδ (hlen0 ▸ hl) hlast

variable (hlast : ∀ i, (repeatUp 0 i ([1], [1]) (bmRound f S)).1.getLast? = some 1)
include hlast

theorem Field.Generated.bmInvariant {i : Nat} (hi : i ≤ S.length) :
    BmInvariant q v (powerSum T g x) T.card i (repeatUp 0 i ([1], [1]) (bmRound f S)).1
      (repeatUp 0 i ([1], [1]) (bmRound f S)).2 := by
  induction i with
  | zero => exact hg.bmInvariant_zero _
  | succ i ih =>
    have hl := hlast (i + 1)
    rw [repeatUp_succ] at hl ⊢
    exact hg.bmInvariant_succ hx hS hd hi (ih (Nat.le_of_succ_le hi)) hl

/-- The locator of a sum of at most half as many powers as there are syndromes is no longer than needed, and 0 at each
point with a value. -/
theorem Field.Generated.bmLocator_root (hT : 2 * T.card ≤ S.length) :
    (bmLocator f S).length ≤ T.card + 1 ∧ (bmLocator f S).getLast? = some 1 ∧
      ∀ k ∈ T, g k * window v (x k ^ ·) 0 (bmLocator f S) = 0 := by
  have h := hg.bmInvariant hx hS hd hlast le_rfl
  have hsize : (bmLocator f S).length ≤ T.card + 1 := h.le_size
  exact ⟨hsize, h.last, fun k hk => mul_window_eq_zero hx (fun a ha => h.err_zero a (by
    change a + (bmLocator f S).length ≤ S.length; omega)) hk⟩

end

end Sys2Proof.Machine
end

section
/-! SUPPORT. The points of a codeword's positions, its syndromes as sums of powers of them, the Forney transform, and the
positions CHIEN finds (43_decoder_front R182, R184, 44_locator R203). -/

namespace Sys2Proof.Machine

/-! ### Values of a sequence -/

section
variable {A : Type*} [CommRing A] {v : Nat → A}

theorem horner_append (t : A) (p r : List Nat) : horner v t (p ++ r) = horner v t p * t ^ r.length + horner v t r := by
  induction r using List.reverseRecOn with
  | nil => rw [List.append_nil, List.length_nil, pow_zero, mul_one]; exact (add_zero _).symm
  | append_singleton r c ih =>
    rw [← List.append_assoc, horner_append_singleton, ih, horner_append_singleton, List.length_append,
      List.length_singleton]
    ring

/-- Read from its other end, a sequence has the coefficient j at the j-th power. -/
theorem horner_reverse (t : A) (p : List Nat) : horner v t p.reverse = window v (t ^ ·) 0 p := by
  induction p with
  | nil => rfl
  | cons c p ih =>
    rw [List.reverse_cons, horner_append_singleton, ih, window_cons, window, window, Finset.sum_mul, pow_zero, mul_one,
      add_comm]
    refine congrArg (v c + ·) (Finset.sum_congr rfl fun j _ => ?_)
    rw [Nat.zero_add, Nat.zero_add, pow_add]
    ring

theorem horner_eq_sum (t : A) (p : List Nat) :
    horner v t p = ∑ j ∈ Finset.range p.length, v (p.getD j 0) * t ^ (p.length - 1 - j) := by
  induction p with
  | nil => rfl
  | cons c p ih =>
    rw [← List.singleton_append, horner_append, ih, List.singleton_append, List.length_cons, Finset.sum_range_succ',
      add_comm]
    simp [horner, Nat.sub_sub, Nat.add_comm 1]

theorem eval_horner_X (t : A) (p : List Nat) :
    (horner (fun c => Polynomial.C (v c)) Polynomial.X p).eval t = horner v t p := by
  induction p using List.reverseRecOn with
  | nil => exact Polynomial.eval_zero
  | append_singleton p c ih =>
    rw [horner_append_singleton, horner_append_singleton, Polynomial.eval_add, Polynomial.eval_mul, ih,
      Polynomial.eval_X, Polynomial.eval_C]

theorem degree_horner_X_lt (p : List Nat) :
    (horner (fun c => Polynomial.C (v c)) Polynomial.X p).degree < p.length := by
  rw [Polynomial.degree_lt_iff_coeff_zero]
  induction p using List.reverseRecOn with
  | nil => exact fun m _ => Polynomial.coeff_zero m
  | append_singleton p c ih =>
    intro m hm
    obtain ⟨m, rfl⟩ := Nat.exists_eq_add_of_le' ((Nat.le_add_left 1 _).trans (List.length_append ▸ hm))
    rw [List.length_append, List.length_singleton] at hm
    rw [horner_append_singleton, Polynomial.coeff_add, Polynomial.coeff_mul_X, ih m (Nat.le_of_succ_le_succ hm),
      Polynomial.coeff_C_succ, add_zero]

end

/-! ### The points of the positions (00_scope R19, 45_correction R221) -/

/-- The point of position `p` of a codeword of length `L`: its locator value (R19). -/
def point {A : Type*} [CommRing A] (α : A) (L p : Nat) : A := α ^ (L - 1 - p)

theorem Field.Closed.locatorValue_lt {f : Field} {q : Nat} (hf : f.Closed q) (L p : Nat) : locatorValue f L p < q :=
  hf.exp_lt _

theorem Field.Closed.inverseLocator_lt {f : Field} {q : Nat} (hf : f.Closed q) (L p : Nat) : inverseLocator f L p < q :=
  hf.exp_lt _

section
variable {A : Type*} [CommRing A] {v : Nat → A} {α : A} {f : Field} {q : Nat} (hg : f.Generated q v α) {L : Nat}
  (hL : L ≤ f.n)
include hg hL

theorem Field.Generated.map_locatorValue {p : Nat} (hp : p < L) : v (locatorValue f L p) = point α L p :=
  hg.map_exp (by omega)

theorem Field.Generated.point_inj {p r : Nat} (hp : p < L) (hr : r < L) (h : point α L p = point α L r) : p = r := by
  have := hg.pow_inj (by omega) (by omega) h
  omega

theorem Field.Generated.point_injOn {T : Finset Nat} (hT : ∀ p ∈ T, p < L) : Set.InjOn (point α L) T :=
  fun _ hp _ hr => hg.point_inj hL (hT _ hp) (hT _ hr)

theorem Field.Generated.inverseLocator_mul_point {p : Nat} (hp : p < L) :
    v (inverseLocator f L p) * point α L p = 1 := by
  rw [inverseLocator, hg.map_exp (by omega), point, ← pow_add, ← hg.order]
  congr 1
  omega

/-! ### Syndromes (43_decoder_front R182, R184) -/

/-- The difference of two codewords, position by position. -/
def difference (w c : List Nat) (k : Nat) : Nat := w.getD k 0 ^^^ c.getD k 0

omit hL in
/-- The syndromes of a word that differs from a codeword at `T` only: sums of powers of the points of `T`. -/
theorem Field.Generated.map_syndromes {w c : List Nat} (hw : ∀ x ∈ w, x < q) (hc : ∀ x ∈ c, x < q)
    (hwL : w.length = L) (hcL : c.length = L) {T : Finset Nat} (hT : ∀ k ∈ T, k < L)
    (hsame : ∀ k < L, k ∉ T → w.getD k 0 = c.getD k 0) {nsym i : Nat} (hi : i < nsym) (hn : nsym ≤ f.n)
    (hzero : polyEval f c (f.expAt i) = 0) :
    v ((syndromes f nsym w).getD i 0) = powerSum T (fun k => v (difference w c k)) (point α L) i := by
  have hval {p : List Nat} (hp : ∀ x ∈ p, x < q) (hpL : p.length = L) : v (polyEval f p (f.expAt i)) =
      powerSum (Finset.range L) (fun k => v (p.getD k 0)) (point α L) i := by
    rw [hg.map_polyEval hp (hg.exp_lt i), hg.map_exp (by omega), horner_eq_sum, hpL]
    refine Finset.sum_congr rfl fun k _ => ?_
    rw [point, ← pow_mul, ← pow_mul, Nat.mul_comm]
  have hw0 := getD_lt_of_forall hg.pos hw
  have hc0 := getD_lt_of_forall hg.pos hc
  have hsyn : (syndromes f nsym w).getD i 0 = polyEval f w (f.expAt i) := by
    rw [List.getD_eq_getElem _ _ (by simpa using hi)]
    simp [syndromes, cwEval_eq_polyEval]
  rw [powerSum_subset (T := Finset.range L) (fun k hk => Finset.mem_range.2 (hT k hk)) fun k hk hk' => by
    rw [difference, hsame k (Finset.mem_range.1 hk) hk', Nat.xor_self, hg.map_zero]]
  have hcw := hval hc hcL
  rw [hzero, hg.map_zero] at hcw
  rw [hsyn, hval hw hwL, ← add_zero (powerSum ..), hcw, powerSum, powerSum, powerSum, ← Finset.sum_add_distrib]
  refine Finset.sum_congr rfl fun k _ => ?_
  rw [difference, hg.map_xor (hw0 k) (hc0 k)]
  ring

/-- The Forney transform multiplies the value at a point by its differences from the erased points. -/
theorem Field.Generated.map_forney {T : Finset Nat} {g : Nat → A} {S era : List Nat} (hS : ∀ x ∈ S, x < q)
    (hera : ∀ p ∈ era, p < L) (hd : ∀ a < S.length, v (S.getD a 0) = powerSum T g (point α L) a) :
    ∀ a < (forney f S era L).length, v ((forney f S era L).getD a 0) =
      powerSum T (fun k => g k * (era.map fun p => point α L p + point α L k).prod) (point α L) a := by
  induction era generalizing S g with
  | nil => simpa [forney] using hd
  | cons p era ih =>
    obtain ⟨hp, hera⟩ := List.forall_mem_cons.1 hera
    have hstep (a : Nat) (ha : a < (forneyStep f (locatorValue f L p) S).length) :
        v ((forneyStep f (locatorValue f L p) S).getD a 0) =
          powerSum T (fun k => g k * (point α L p + point α L k)) (point α L) a := by
      rw [forneyStep_length] at ha
      rw [hg.map_forneyStep_getD (hg.locatorValue_lt L p) hS ha, hd a (by omega), hd (a + 1) (by omega), hg.map_locatorValue hL hp,
        powerSum, powerSum, powerSum, Finset.sum_mul, ← Finset.sum_add_distrib]
      refine Finset.sum_congr rfl fun k _ => ?_
      ring
    intro a ha
    rw [forney_cons] at ha ⊢
    rw [ih (hg.forneyStep_lt hS _) hera hstep a ha]
    exact powerSum_congr (fun k _ => by rw [List.map_cons, List.prod_cons, mul_assoc]) a

end

/-! ### The positions CHIEN finds (44_locator R203) -/

/-- CHIEN tries each position's inverse locator value, from the last position on. -/
theorem chienPositions_eq {f : Field} {L : Nat} (hL : L ≤ f.n) (loc : List Nat) :
    chienPositions f loc L =
      ((List.range L).map fun i => L - 1 - i).filter fun p => polyEval f loc (inverseLocator f L p) == 0 := by
  rw [List.filter_map]
  refine congrArg _ (List.filter_congr fun i hi => ?_)
  have hi := List.mem_range.1 hi
  rw [Function.comp_apply, inverseLocator, show L - 1 - i + f.n + 1 - L = f.n - i by omega]

theorem mem_chienPositions_iff {f : Field} {L : Nat} (hL : L ≤ f.n) {loc : List Nat} {p : Nat} :
    p ∈ chienPositions f loc L ↔ p < L ∧ polyEval f loc (inverseLocator f L p) = 0 := by
  rw [chienPositions_eq hL, List.mem_filter, List.mem_map, beq_iff_eq]
  refine and_congr_left fun _ => ⟨fun ⟨i, hi, hp⟩ => ?_, fun hp => ⟨L - 1 - p, List.mem_range.2 (by omega), by omega⟩⟩
  have := List.mem_range.1 hi
  omega

theorem chienPositions_nodup {f : Field} {L : Nat} (hL : L ≤ f.n) (loc : List Nat) :
    (chienPositions f loc L).Nodup := by
  rw [chienPositions_eq hL]
  refine List.Nodup.filter _ (List.Nodup.map_on (fun i hi j hj hij => ?_) List.nodup_range)
  have := List.mem_range.1 hi
  have := List.mem_range.1 hj
  omega

section
variable {A : Type*} [CommRing A] [IsDomain A] {v : Nat → A} {α : A} {f : Field} {q : Nat} (hg : f.Generated q v α)
  {L : Nat} (hL : L ≤ f.n) {loc : List Nat} (hloc : ∀ x ∈ loc, x < q)
include hg hL hloc

/-- A position is found where the locator, read from its other end, is 0 at its point. -/
theorem Field.Generated.mem_chienPositions_iff {p : Nat} (hp : p < L) :
    p ∈ chienPositions f loc L ↔ window v (point α L p ^ ·) 0 loc = 0 := by
  have hinv := hg.inverseLocator_mul_point hL hp
  have hne : point α L p ≠ 0 := right_ne_zero_of_mul_eq_one hinv
  have hval := horner_mul_pow (v := v) hinv loc
  have hmap := hg.map_polyEval hloc (hg.inverseLocator_lt L p)
  rw [Machine.mem_chienPositions_iff hL]
  refine ⟨fun ⟨_, h0⟩ => ?_, fun h0 => ⟨hp, hg.eq_zero_of_map (hg.polyEval_lt hloc _) (hmap.trans ?_)⟩⟩
  · rw [← hmap, h0, hg.map_zero, zero_mul] at hval
    exact (mul_eq_zero.1 hval.symm).resolve_right hne
  · rw [h0, zero_mul] at hval
    exact (mul_eq_zero.1 hval).resolve_right (pow_ne_zero _ hne)

/-- A locator with constant term 1 has at most as many roots as its degree. -/
theorem Field.Generated.chienPositions_length_lt (hlast : loc.getLast? = some 1) :
    (chienPositions f loc L).length < loc.length := by
  classical
  obtain ⟨e, rfl⟩ := List.getLast?_eq_some_iff.1 hlast
  have hne : horner (fun c => Polynomial.C (v c)) Polynomial.X (e ++ [1]) ≠ 0 := fun h0 => by
    have := congrArg (Polynomial.coeff · 0) h0
    simp [horner_append_singleton, hg.map_one] at this
  have hdeg := (Polynomial.natDegree_lt_iff_degree_lt hne).2 (degree_horner_X_lt (v := v) (e ++ [1]))
  have hinj : Set.InjOn (fun p => v (inverseLocator f L p)) (chienPositions f (e ++ [1]) L).toFinset := by
    intro p hp r hr hpr
    have hp := chienPositions_lt (List.mem_toFinset.1 hp)
    have hr := chienPositions_lt (List.mem_toFinset.1 hr)
    refine hg.point_inj hL hp hr ?_
    have hpr : v (inverseLocator f L p) = v (inverseLocator f L r) := hpr
    calc point α L p = v (inverseLocator f L r) * point α L r * point α L p := by
          rw [hg.inverseLocator_mul_point hL hr, one_mul]
      _ = v (inverseLocator f L p) * point α L p * point α L r := by rw [hpr]; ring
      _ = point α L r := by rw [hg.inverseLocator_mul_point hL hp, one_mul]
  have hroots := Polynomial.card_le_degree_of_subset_roots
    (p := horner (fun c => Polynomial.C (v c)) Polynomial.X (e ++ [1]))
    (Z := (chienPositions f (e ++ [1]) L).toFinset.image fun p => v (inverseLocator f L p)) fun t ht => by
      obtain ⟨p, hp, rfl⟩ := Finset.mem_image.1 (Finset.mem_def.2 ht)
      obtain ⟨-, h0⟩ := (Machine.mem_chienPositions_iff hL).1 (List.mem_toFinset.1 hp)
      rw [Polynomial.mem_roots hne, Polynomial.IsRoot.def, eval_horner_X,
        ← hg.map_polyEval hloc (hg.inverseLocator_lt L p), h0, hg.map_zero]
  rw [Finset.card_image_of_injOn hinj, List.toFinset_card_of_nodup (chienPositions_nodup hL _)] at hroots
  exact hroots.trans_lt hdeg

/-- A short locator that vanishes at the points of `T` vanishes at no other, and its degree is their number. -/
theorem Field.Generated.chienPositions_eq {T : Finset Nat} (hT : ∀ p ∈ T, p < L) (hlast : loc.getLast? = some 1)
    (hlen : loc.length ≤ T.card + 1) (hroot : ∀ p ∈ T, window v (point α L p ^ ·) 0 loc = 0) :
    (chienPositions f loc L).toFinset = T ∧ loc.length = T.card + 1 := by
  have hlt := hg.chienPositions_length_lt hL hloc hlast
  have hsub : T ⊆ (chienPositions f loc L).toFinset := fun p hp =>
    List.mem_toFinset.2 ((hg.mem_chienPositions_iff hL hloc (hT p hp)).2 (hroot p hp))
  have hcard := List.toFinset_card_of_nodup (chienPositions_nodup hL loc)
  have hle := Finset.card_le_card hsub
  exact ⟨(Finset.eq_of_subset_of_card_le hsub (by omega)).symm, by omega⟩

end

end Sys2Proof.Machine
end

section
/-! SUPPORT. Forney's formula: the errata locator, evaluator and derivative as polynomials, the magnitude at each listed
position, and the codeword corrected by them (45_correction R220 to R222). -/

namespace Sys2Proof.Machine

/-- The factor of the errata locator that vanishes at the inverse of `x` (45_correction R220). -/
noncomputable def errataFactor {A : Type*} [CommRing A] (x : A) : Polynomial A :=
  Polynomial.C x * Polynomial.X + 1

section
variable {A : Type*} [CommRing A]

theorem eval_errataFactor (x t : A) : (errataFactor x).eval t = x * t + 1 := by simp [errataFactor]

/-- Polynomials below degree E that differ by a multiple of x^E are equal. -/
theorem eq_of_add_X_pow_mul {P Q R T : Polynomial A} {E : Nat} (hP : P.degree < E) (hQ : Q.degree < E)
    (h : P + Polynomial.X ^ E * R = Q + Polynomial.X ^ E * T) : P = Q := by
  ext n
  rcases lt_or_ge n E with hn | hn
  · have := congrArg (Polynomial.coeff · n) h
    simpa [Polynomial.coeff_X_pow_mul', hn.not_ge] using this
  · rw [(Polynomial.degree_lt_iff_coeff_zero _ _).1 hP n hn, (Polynomial.degree_lt_iff_coeff_zero _ _).1 hQ n hn]

end

theorem degree_prod_errataFactor_lt {A : Type*} [CommRing A] (T : Finset Nat) (x : Nat → A) :
    (∏ j ∈ T, errataFactor (x j)).degree < (T.card + 1 : Nat) := by
  refine Polynomial.degree_le_natDegree.trans_lt (Nat.cast_lt.2 (Nat.lt_succ_of_le ?_))
  refine (Polynomial.natDegree_prod_le _ _).trans ((Finset.sum_le_card_nsmul T _ 1 fun j _ => ?_).trans (by simp))
  simpa [errataFactor] using Polynomial.natDegree_linear_le (a := x j) (b := 1)

/-! ### The errata locator (45_correction R220) -/

theorem errataLocator_length (f : Field) (pos : List Nat) (L : Nat) :
    (errataLocator f pos L).length = pos.length + 1 := by
  induction pos using List.reverseRecOn with
  | nil => rfl
  | append_singleton pos p ih => rw [errataLocator_append_singleton, polyMul_length, ih]; simp

theorem Field.Closed.errataLocator_lt {f : Field} {q : Nat} (hf : f.Closed q) (hq : 1 < q) (pos : List Nat) (L : Nat) :
    ∀ x ∈ errataLocator f pos L, x < q := by
  induction pos using List.reverseRecOn with
  | nil => exact List.forall_mem_singleton.2 hq
  | append_singleton pos p _ => exact errataLocator_append_singleton f pos p L ▸ hf.polyMul_lt _ _

theorem forall_mem_everySecond {P : Nat → Prop} {p : List Nat} (h : ∀ x ∈ p, P x) : ∀ x ∈ everySecond p, P x := by
  induction p using everySecond.induct with
  | case1 => exact h
  | case2 a => exact h
  | case3 a b p ih =>
    simp only [List.forall_mem_cons] at h
    exact List.forall_mem_cons.2 ⟨h.1, ih h.2.2⟩

section
variable {A : Type*} [CommRing A] {v : Nat → A} {α : A} {f : Field} {q : Nat} (hg : f.Generated q v α)
include hg

theorem Field.Generated.natCast_of_even {n : Nat} (hn : n % 2 = 0) : (n : A) = 0 := by
  obtain ⟨k, rfl⟩ := Nat.dvd_of_mod_eq_zero hn
  have := hg.add_self (k : A)
  push_cast
  linear_combination this

theorem Field.Generated.polynomial_add_self (P : Polynomial A) : P + P = 0 :=
  Polynomial.ext fun n => by rw [Polynomial.coeff_add, hg.add_self, Polynomial.coeff_zero]

/-- Of an even number of coefficients every second is one of the derivative, and the others drop out. -/
theorem Field.Generated.horner_everySecond (t : A) {p : List Nat} (hp : p.length % 2 = 0) :
    horner v (t * t) (everySecond p) =
      (Polynomial.derivative (horner (fun c => Polynomial.C (v c)) Polynomial.X p)).eval t := by
  induction p using everySecond.induct with
  | case1 => simp [everySecond, horner]
  | case2 a => simp at hp
  | case3 a b p ih =>
    have hp : p.length % 2 = 0 := by simp only [List.length_cons] at hp; omega
    have hlen : (everySecond p).length + (everySecond p).length = p.length := by rw [everySecond_length]; omega
    have hz := hg.natCast_of_even hp
    have hsplit : a :: b :: p = [a, b] ++ p := rfl
    rw [everySecond, ← List.singleton_append, horner_append, ih hp, hsplit, horner_append]
    simp only [horner, List.foldl_cons, List.foldl_nil, Polynomial.derivative_add, Polynomial.derivative_mul,
      Polynomial.derivative_X_pow, Polynomial.eval_add, Polynomial.eval_mul, Polynomial.eval_pow]
    simp [hz, mul_pow, ← pow_add, hlen]

/-- The errata derivative, whose argument is squared, is the derivative of the locator (R220). -/
theorem Field.Generated.horner_errataDerivative (t : A) (p : List Nat) :
    horner v (t * t) (errataDerivative p) =
      (Polynomial.derivative (horner (fun c => Polynomial.C (v c)) Polynomial.X p)).eval t := by
  rw [errataDerivative, stride2, Nat.and_one_is_mod]
  rcases Nat.mod_two_eq_zero_or_one p.length with hp | hp
  · rw [hp, List.drop_zero, hg.horner_everySecond t hp]
  · cases p with
    | nil => simp at hp
    | cons a p =>
      have hp' : p.length % 2 = 0 := by rw [List.length_cons] at hp; omega
      have hz := hg.natCast_of_even hp'
      rw [hp, List.drop_one, List.tail_cons, hg.horner_everySecond t hp', ← List.singleton_append, horner_append]
      simp [horner, hz, Polynomial.derivative_X_pow]

variable {L : Nat} (hL : L ≤ f.n) {pos : List Nat} (hnd : pos.Nodup) (hpos : ∀ p ∈ pos, p < L)
include hL hnd hpos

theorem Field.Generated.horner_errataLocator :
    horner (fun c => Polynomial.C (v c)) Polynomial.X (errataLocator f pos L) =
      ∏ p ∈ pos.toFinset, errataFactor (point α L p) := by
  have hX := hg.polynomial
  rw [List.prod_toFinset _ hnd]
  clear hnd
  induction pos using List.reverseRecOn with
  | nil => simp [errataLocator, horner, hg.map_one]
  | append_singleton pos p ih =>
    obtain ⟨hpos, hp⟩ := List.forall_mem_append.1 hpos
    have hp := List.forall_mem_singleton.1 hp
    have hfactor : ∀ c ∈ [locatorValue f L p, 1], c < q :=
      List.forall_mem_cons.2 ⟨hg.locatorValue_lt L p, List.forall_mem_singleton.2 hg.one_lt⟩
    rw [errataLocator_append_singleton, hX.horner_polyMul (by rw [errataLocator_length]; omega)
      (hg.errataLocator_lt hg.one_lt pos L) hfactor, ih hpos, List.map_append, List.prod_append, List.map_singleton,
      List.prod_singleton]
    simp [horner, errataFactor, hg.map_locatorValue hL hp, hg.map_one]

/-! ### Forney's formula (45_correction R221) -/

/-- At the inverse of its point the derivative times the inverse is the product of the other factors. -/
theorem Field.Generated.map_magnitudeDenominator {k : Nat} (hk : k ∈ pos) :
    v (magnitudeDenominator f (errataDerivative (errataLocator f pos L)) L k) =
      ∏ j ∈ pos.toFinset.erase k, (point α L j * v (inverseLocator f L k) + 1) := by
  have hlam := hg.errataLocator_lt hg.one_lt pos L
  have hder : ∀ x ∈ errataDerivative (errataLocator f pos L), x < q :=
    forall_mem_everySecond fun x hx => hlam x (List.mem_of_mem_drop hx)
  have hinvlt := hg.inverseLocator_lt L k
  have hinv := hg.inverseLocator_mul_point hL (hpos k hk)
  rw [magnitudeDenominator, hg.map_mul hinvlt (hg.polyEval_lt hder _), hg.map_polyEval hder (hg.gfMul_lt ..),
    hg.map_mul hinvlt hinvlt, hg.horner_errataDerivative, hg.horner_errataLocator hL hnd hpos,
    ← Finset.mul_prod_erase _ _ (List.mem_toFinset.2 hk), Polynomial.derivative_mul, Polynomial.eval_add,
    Polynomial.eval_mul, Polynomial.eval_mul, eval_errataFactor, mul_comm (point α L k), hinv, hg.add_self]
  have hprod : (∏ j ∈ pos.toFinset.erase k, errataFactor (point α L j)).eval (v (inverseLocator f L k)) =
      ∏ j ∈ pos.toFinset.erase k, (point α L j * v (inverseLocator f L k) + 1) := by
    simp only [Polynomial.eval_prod, eval_errataFactor]
  have hfac : (Polynomial.derivative (errataFactor (point α L k))).eval (v (inverseLocator f L k)) = point α L k := by
    simp [errataFactor]
  rw [hprod, hfac, zero_mul, add_zero, ← mul_assoc, hinv, one_mul]

omit hL hnd hpos in
/-- A syndrome polynomial of one point times the point's factor. -/
theorem Field.Generated.geom_sum_mul_errataFactor (x : A) (E : Nat) :
    (∑ a ∈ Finset.range E, (Polynomial.C x * Polynomial.X) ^ a) * errataFactor x =
      (Polynomial.C x * Polynomial.X) ^ E + 1 := by
  have htwo := hg.polynomial_add_self (1 : Polynomial A)
  rw [errataFactor]
  linear_combination geom_sum_mul (Polynomial.C x * Polynomial.X) E +
    ((∑ a ∈ Finset.range E, (Polynomial.C x * Polynomial.X) ^ a) - 1) * htwo

/-- The product of the syndromes and the locator: what the evaluator keeps, and a multiple of x^E. -/
theorem Field.Generated.horner_syndromes_mul {g : Nat → A} {S : List Nat} (hlen : pos.length ≤ S.length)
    (hd : ∀ a < pos.length, v (S.getD a 0) = powerSum pos.toFinset g (point α L) a) :
    horner (fun c => Polynomial.C (v c)) Polynomial.X (S.take pos.length).reverse *
        horner (fun c => Polynomial.C (v c)) Polynomial.X (errataLocator f pos L) =
      ∑ k ∈ pos.toFinset, Polynomial.C (g k) * ∏ j ∈ pos.toFinset.erase k, errataFactor (point α L j) +
        Polynomial.X ^ pos.length * ∑ k ∈ pos.toFinset, Polynomial.C (g k * point α L k ^ pos.length) *
          ∏ j ∈ pos.toFinset.erase k, errataFactor (point α L j) := by
  have hsyn : horner (fun c => Polynomial.C (v c)) Polynomial.X (S.take pos.length).reverse =
      ∑ k ∈ pos.toFinset, Polynomial.C (g k) *
        ∑ a ∈ Finset.range pos.length, (Polynomial.C (point α L k) * Polynomial.X) ^ a := by
    simp only [Finset.mul_sum]
    rw [horner_reverse, window, List.length_take, min_eq_left hlen, Finset.sum_comm]
    refine Finset.sum_congr rfl fun a ha => ?_
    have ha := Finset.mem_range.1 ha
    have hget : (S.take pos.length).getD a 0 = S.getD a 0 := by
      simp only [List.getD, List.getElem?_take_of_lt ha]
    rw [hget, hd a ha, powerSum, map_sum, Finset.sum_mul, Nat.zero_add]
    refine Finset.sum_congr rfl fun k _ => ?_
    rw [Polynomial.C_mul, Polynomial.C_pow, mul_pow, mul_assoc]
  rw [hsyn, hg.horner_errataLocator hL hnd hpos, Finset.sum_mul, Finset.mul_sum, ← Finset.sum_add_distrib]
  refine Finset.sum_congr rfl fun k hk => ?_
  rw [← Finset.mul_prod_erase _ _ hk, Polynomial.C_mul, Polynomial.C_pow]
  linear_combination (Polynomial.C (g k) * ∏ j ∈ pos.toFinset.erase k, errataFactor (point α L j)) *
    hg.geom_sum_mul_errataFactor (point α L k) pos.length

/-- The evaluator is the sum of the values times the products of the other factors (R220). -/
theorem Field.Generated.horner_errataEvaluator {g : Nat → A} {S : List Nat} (hS : ∀ x ∈ S, x < q)
    (hpos1 : 1 ≤ pos.length) (hlen : pos.length ≤ S.length)
    (hd : ∀ a < pos.length, v (S.getD a 0) = powerSum pos.toFinset g (point α L) a) :
    horner (fun c => Polynomial.C (v c)) Polynomial.X (errataEvaluator f pos.length S (errataLocator f pos L)) =
      ∑ k ∈ pos.toFinset, Polynomial.C (g k) * ∏ j ∈ pos.toFinset.erase k, errataFactor (point α L j) := by
  have hlam := hg.errataLocator_lt hg.one_lt pos L
  have hrev : ∀ x ∈ (S.take pos.length).reverse, x < q := fun x hx =>
    hS x (List.mem_of_mem_take (List.mem_reverse.1 hx))
  have hrevlen : (S.take pos.length).reverse.length = pos.length := by
    rw [List.length_reverse, List.length_take, min_eq_left hlen]
  have hmul := (hg.polynomial.horner_polyMul (by omega) hrev hlam Polynomial.X).trans
    (hg.horner_syndromes_mul hL hnd hpos hlen hd)
  have holen : (polyMul f (S.take pos.length).reverse (errataLocator f pos L)).length = pos.length + pos.length := by
    rw [polyMul_length, hrevlen, errataLocator_length]; rfl
  rw [errataEvaluator_eq_drop, holen, Nat.add_sub_cancel]
  generalize polyMul f (S.take pos.length).reverse (errataLocator f pos L) = o at hmul holen
  have hlow : (o.drop pos.length).length = pos.length := by rw [List.length_drop, holen, Nat.add_sub_cancel]
  have hdeg := degree_horner_X_lt (v := v) (o.drop pos.length)
  rw [hlow] at hdeg
  refine eq_of_add_X_pow_mul (R := horner (fun c => Polynomial.C (v c)) Polynomial.X (o.take pos.length)) hdeg ?_
    (Eq.trans ?_ hmul)
  · have hcard := List.toFinset_card_of_nodup hnd
    refine Polynomial.mem_degreeLT.1 (Submodule.sum_mem _ fun k hk => ?_)
    rw [← Polynomial.smul_eq_C_mul]
    refine Submodule.smul_mem _ _ (Polynomial.mem_degreeLT.2 ((degree_prod_errataFactor_lt _ _).trans_le ?_))
    rw [Finset.card_erase_of_mem hk, hcard, Nat.sub_add_cancel hpos1]
  · have happ := horner_append (v := fun c => Polynomial.C (v c)) Polynomial.X (o.take pos.length) (o.drop pos.length)
    rw [List.take_append_drop, hlow] at happ
    rw [happ, mul_comm, add_comm]

end

/-! ### The corrected codeword (45_correction R222) -/

/-- What the magnitudes do to a codeword, where each position is listed once. -/
theorem applyErrata_map_getD {w pos : List Nat} (g : Nat → Nat) (hnd : pos.Nodup) {i : Nat} (hi : i < w.length) :
    (applyErrata w pos (pos.map g)).getD i 0 = if i ∈ pos then w.getD i 0 ^^^ g i else w.getD i 0 := by
  induction pos generalizing w with
  | nil => rw [applyErrata_nil, if_neg (List.not_mem_nil)]
  | cons p pos ih =>
    obtain ⟨hp, hnd⟩ := List.nodup_cons.1 hnd
    rw [List.map_cons, applyErrata, ih hnd (by rwa [xorAt_length]), xorAt_getD _ _ _ _ hi]
    by_cases hip : i = p
    · subst hip
      rw [if_neg hp, if_pos rfl, if_pos List.mem_cons_self]
    · rw [if_neg hip]
      exact if_congr (by simp [hip]) rfl rfl

section
variable {A : Type*} [CommRing A] [IsDomain A] {v : Nat → A} {α : A} {f : Field} {q : Nat} (hg : f.Generated q v α)
  {L : Nat} (hL : L ≤ f.n) {pos : List Nat} (hnd : pos.Nodup) (hpos : ∀ p ∈ pos, p < L)
include hg hL hnd hpos

/-- No denominator is 0: a factor vanishes at the inverse of its own point only. -/
theorem Field.Generated.magnitudeDenominator_ne_zero {k : Nat} (hk : k ∈ pos) :
    magnitudeDenominator f (errataDerivative (errataLocator f pos L)) L k ≠ 0 := by
  intro h0
  have hden := hg.map_magnitudeDenominator hL hnd hpos hk
  rw [h0, hg.map_zero] at hden
  obtain ⟨j, hj, hz⟩ := Finset.prod_eq_zero_iff.1 hden.symm
  obtain ⟨hjk, hj⟩ := Finset.mem_erase.1 hj
  have hinv := hg.inverseLocator_mul_point hL (hpos k hk)
  refine hjk (hg.point_inj hL (hpos j (List.mem_toFinset.1 hj)) (hpos k hk) ?_)
  have hone := hg.eq_of_add_eq_zero hz
  linear_combination point α L k * hone - point α L j * hinv

section
variable {e : Nat → Nat} (he : ∀ k, e k < q) {S : List Nat} (hS : ∀ x ∈ S, x < q) (hlen : pos.length ≤ S.length)
  (hd : ∀ a < pos.length, v (S.getD a 0) = powerSum pos.toFinset (fun k => v (e k)) (point α L) a)
include he hS hlen hd

/-- Forney's formula: the magnitude at a position is the value there, since the evaluator keeps one term (R221). -/
theorem Field.Generated.magnitude_eq {k : Nat} (hk : k ∈ pos) :
    gfQuot f (polyEval f (errataEvaluator f pos.length S (errataLocator f pos L)) (inverseLocator f L k))
      (magnitudeDenominator f (errataDerivative (errataLocator f pos L)) L k) = e k := by
  have hden0 := hg.magnitudeDenominator_ne_zero hL hnd hpos hk
  have hdenlt : magnitudeDenominator f (errataDerivative (errataLocator f pos L)) L k < q := hg.gfMul_lt ..
  have hinv := hg.inverseLocator_mul_point hL (hpos k hk)
  have hom : ∀ x ∈ errataEvaluator f pos.length S (errataLocator f pos L), x < q := fun x hx =>
    hg.polyMul_lt _ _ x (List.mem_of_mem_drop (errataEvaluator_eq_drop .. ▸ hx))
  have hnum : v (polyEval f (errataEvaluator f pos.length S (errataLocator f pos L)) (inverseLocator f L k)) =
      v (e k) * v (magnitudeDenominator f (errataDerivative (errataLocator f pos L)) L k) := by
    rw [hg.map_polyEval hom (hg.inverseLocator_lt L k), ← eval_horner_X,
      hg.horner_errataEvaluator hL hnd hpos hS (List.length_pos_of_mem hk) hlen hd,
      hg.map_magnitudeDenominator hL hnd hpos hk, Polynomial.eval_finsetSum,
      Finset.sum_eq_single_of_mem k (List.mem_toFinset.2 hk) fun j _ hjk => ?_]
    · simp only [Polynomial.eval_mul, Polynomial.eval_C, Polynomial.eval_prod, eval_errataFactor]
    · rw [Polynomial.eval_mul, Polynomial.eval_prod,
        Finset.prod_eq_zero (Finset.mem_erase.2 ⟨hjk.symm, List.mem_toFinset.2 hk⟩), mul_zero]
      rw [eval_errataFactor, mul_comm, hinv, hg.add_self]
  have hquot := (hg.map_quot (hg.polyEval_lt hom _) hdenlt hden0).trans hnum
  exact hg.inj (hg.gfQuot_lt ..) (he k)
    (mul_right_cancel₀ (fun h0 => hden0 (hg.eq_zero_of_map hdenlt h0)) hquot)

end

/-- CORRECT gives the codeword back where every position that differs is listed, and no more than there are
syndromes. -/
theorem Field.Generated.correctedCodeword_eq {w c S : List Nat} (hw : ∀ x ∈ w, x < q) (hc : ∀ x ∈ c, x < q)
    (hwL : w.length = L) (hcL : c.length = L) (hsame : ∀ k < L, k ∉ pos → w.getD k 0 = c.getD k 0)
    (hS : ∀ x ∈ S, x < q) (hlen : pos.length ≤ S.length)
    (hd : ∀ a < pos.length,
      v (S.getD a 0) = powerSum pos.toFinset (fun k => v (difference w c k)) (point α L) a) :
    correctedCodeword f w S pos L = .ok c := by
  have hdiff (k : Nat) : difference w c k < q :=
    hg.xor_lt (getD_lt_of_forall hg.pos hw k) (getD_lt_of_forall hg.pos hc k)
  have hmag := magnitudes_of_ne f (errataEvaluator f pos.length S (errataLocator f pos L))
    (errataDerivative (errataLocator f pos L)) L fun k hk => hg.magnitudeDenominator_ne_zero hL hnd hpos hk
  rw [List.map_congr_left fun k hk => hg.magnitude_eq hL hnd hpos hdiff hS hlen hd hk] at hmag
  rw [correctedCodeword, hmag, ok_bind, pure_eq_ok]
  refine congrArg _ (eq_of_getD (by rw [applyErrata_length, hwL, hcL]) fun i hi => ?_)
  rw [applyErrata_length] at hi
  rw [applyErrata_map_getD _ hnd hi]
  split
  · rw [difference, ← Nat.xor_assoc, Nat.xor_self, Nat.zero_xor]
  · next hi' => exact hsame i (hwL ▸ hi) hi'

end

end Sys2Proof.Machine
end

section
/-! SUPPORT. A codeword damaged within the bound: what its syndromes, its locator and its correction are (45_correction
R233, item 2). -/

namespace Sys2Proof.Machine

/-- `w` differs from the codeword `c` at the positions of `era` and `chg` only, and at each of `chg`; both have the
length `L`, and 2v + e is at most nsym for v the length of `chg` and e that of `era`. -/
structure Damaged (f : Field) (q nsym L : Nat) (c w era chg : List Nat) : Prop where
  nsym_le : nsym ≤ f.n
  len_le  : L ≤ f.n
  c_len   : c.length = L
  w_len   : w.length = L
  c_lt    : ∀ x ∈ c, x < q
  w_lt    : ∀ x ∈ w, x < q
  zero    : ∀ i < nsym, polyEval f c (f.expAt i) = 0
  pos_lt  : ∀ p ∈ era ++ chg, p < L
  nodup   : (era ++ chg).Nodup
  same    : ∀ k < L, k ∉ era ++ chg → w.getD k 0 = c.getD k 0
  changed : ∀ k ∈ chg, w.getD k 0 ≠ c.getD k 0
  bound   : 2 * chg.length + era.length ≤ nsym

section
variable {A : Type*} [CommRing A] [IsDomain A] {v : Nat → A} {α : A} {f : Field} {q nsym L : Nat}
  (hg : f.Generated q v α) {c w era chg : List Nat} (hd : Damaged f q nsym L c w era chg)
include hg hd

omit [IsDomain A] in
/-- The syndromes are sums of powers of the points of the damaged positions, however these are listed. -/
theorem Field.Generated.map_syndromes_damaged {pos : List Nat} (hp : pos.Perm (era ++ chg)) {i : Nat} (hi : i < nsym) :
    v ((syndromes f nsym w).getD i 0) =
      powerSum pos.toFinset (fun k => v (difference w c k)) (point α L) i :=
  hg.map_syndromes hd.w_lt hd.c_lt hd.w_len hd.c_len
    (fun k hk => hd.pos_lt k (hp.mem_iff.1 (List.mem_toFinset.1 hk)))
    (fun k hk hk' => hd.same k hk fun h => hk' (List.mem_toFinset.2 (hp.mem_iff.2 h))) hi hd.nsym_le (hd.zero i hi)

omit [IsDomain A] hd in
theorem Field.Generated.difference_eq_zero_iff (hw : ∀ x ∈ w, x < q) (hc : ∀ x ∈ c, x < q) (k : Nat) :
    v (difference w c k) = 0 ↔ w.getD k 0 = c.getD k 0 := by
  have hlt : difference w c k < q := hg.xor_lt (getD_lt_of_forall hg.pos hw k) (getD_lt_of_forall hg.pos hc k)
  refine ⟨fun h => Nat.xor_eq_zero_iff.1 (hg.eq_zero_of_map hlt h), fun h => ?_⟩
  rw [difference, h, Nat.xor_self, hg.map_zero]

/-- A damaged codeword with zero syndromes is the codeword. -/
theorem Field.Generated.eq_of_syndromes_zero (hz : ∀ x ∈ syndromes f nsym w, x = 0) : w = c := by
  have hbound := hd.bound
  have hcard : (era ++ chg).toFinset.card = era.length + chg.length := by
    rw [List.toFinset_card_of_nodup hd.nodup, List.length_append]
  have hvals := eq_zero_of_powerSum (g := fun k => v (difference w c k))
    (hg.point_injOn hd.len_le fun k hk => hd.pos_lt k (List.mem_toFinset.1 hk)) fun a ha => by
      have ha : a < nsym := by omega
      have h0 := getD_lt_of_forall Nat.one_pos (fun x hx => Nat.lt_one_iff.2 (hz x hx)) a
      rw [← hg.map_syndromes_damaged hd (List.Perm.refl _) ha, Nat.lt_one_iff.1 h0, hg.map_zero]
  refine eq_of_getD (hd.w_len.trans hd.c_len.symm) fun k hk => ?_
  by_cases hk' : k ∈ era ++ chg
  · exact (hg.difference_eq_zero_iff hd.w_lt hd.c_lt k).1 (hvals k (List.mem_toFinset.2 hk'))
  · exact hd.same k (hd.w_len ▸ hk) hk'

/-- The Forney transform has the sums of powers of the changed positions only, and none of its values there is 0. -/
theorem Field.Generated.map_forney_damaged : ∃ g : Nat → A, (∀ k ∈ chg, g k ≠ 0) ∧
    ∀ a < (forney f (syndromes f nsym w) era L).length,
      v ((forney f (syndromes f nsym w) era L).getD a 0) = powerSum chg.toFinset g (point α L) a := by
  obtain ⟨hera, hchg⟩ := List.forall_mem_append.1 hd.pos_lt
  have hdisj := (List.nodup_append.1 hd.nodup).2.2
  refine ⟨fun k => v (difference w c k) * (era.map fun p => point α L p + point α L k).prod, fun k hk => ?_,
    fun a ha => ?_⟩
  · refine mul_ne_zero (mt (hg.difference_eq_zero_iff hd.w_lt hd.c_lt k).1 (hd.changed k hk)) (List.prod_ne_zero ?_)
    rw [List.mem_map]
    rintro ⟨p, hp, h0⟩
    exact hdisj p hp k hk (hg.point_inj hd.len_le (hera p hp) (hchg k hk) (hg.eq_of_add_eq_zero h0))
  · rw [hg.map_forney hd.len_le (hg.syndromes_lt hd.w_lt nsym) hera (T := (era ++ chg).toFinset)
      (fun a ha => hg.map_syndromes_damaged hd (List.Perm.refl _) (by simpa using ha)) a ha]
    refine (powerSum_subset (fun k hk => ?_) (fun k hk hk' => ?_) a).symm
    · exact List.mem_toFinset.2 (List.mem_append_right _ (List.mem_toFinset.1 hk))
    · have hk : k ∈ era := (List.mem_append.1 (List.mem_toFinset.1 hk)).resolve_right fun h =>
        hk' (List.mem_toFinset.2 h)
      rw [List.prod_eq_zero (List.mem_map.2 ⟨k, hk, hg.add_self _⟩), mul_zero]

/-- CHIEN finds the changed positions, and the locator's degree is their number. -/
theorem Field.Generated.chienPositions_damaged
    (hlast : ∀ S i, (repeatUp 0 i ([1], [1]) (bmRound f S)).1.getLast? = some 1) :
    (chienPositions f (bmLocator f (forney f (syndromes f nsym w) era L)) L).Perm chg ∧
      (bmLocator f (forney f (syndromes f nsym w) era L)).length = chg.length + 1 := by
  have hbound := hd.bound
  obtain ⟨g, hg0, hval⟩ := hg.map_forney_damaged hd
  have hchg := (List.forall_mem_append.1 hd.pos_lt).2
  have hnd : chg.Nodup := (List.nodup_append.1 hd.nodup).2.1
  have hT (p : Nat) (hp : p ∈ chg.toFinset) : p < L := hchg p (List.mem_toFinset.1 hp)
  have hcard := List.toFinset_card_of_nodup hnd
  have hF := hg.forney_lt (hg.syndromes_lt hd.w_lt nsym) era L
  have hlen := forney_length f (syndromes f nsym w) era L
  rw [syndromes_length] at hlen
  obtain ⟨hsize, hone, hroot⟩ := hg.bmLocator_root (hg.point_injOn hd.len_le hT) hF hval (hlast _) (by omega)
  obtain ⟨hset, hloc⟩ := hg.chienPositions_eq hd.len_le (hg.bmLocator_lt hg.one_lt _) hT hone hsize fun p hp =>
    (mul_eq_zero.1 (hroot p hp)).resolve_left (hg0 p (List.mem_toFinset.1 hp))
  exact ⟨List.perm_of_nodup_nodup_toFinset_eq (chienPositions_nodup hd.len_le _) hnd hset, by rw [hloc, hcard]⟩

/-- CORRECT gives the codeword back from the damaged positions, however these are listed. -/
theorem Field.Generated.correctedCodeword_damaged {pos : List Nat} (hp : pos.Perm (era ++ chg)) :
    correctedCodeword f w ((syndromes f nsym w).take pos.length) pos L = .ok c := by
  have hbound := hd.bound
  have hlen : pos.length ≤ nsym := by rw [hp.length_eq, List.length_append]; omega
  have htake : ((syndromes f nsym w).take pos.length).length = pos.length := by
    rw [List.length_take, syndromes_length, min_eq_left hlen]
  refine hg.correctedCodeword_eq hd.len_le (hp.nodup_iff.2 hd.nodup) (fun p h => hd.pos_lt p (hp.mem_iff.1 h)) hd.w_lt
    hd.c_lt hd.w_len hd.c_len (fun k hk hk' => hd.same k hk fun h => hk' (hp.mem_iff.2 h))
    (fun x hx => hg.syndromes_lt hd.w_lt nsym x (List.mem_of_mem_take hx)) htake.ge fun a ha => ?_
  rw [← hg.map_syndromes_damaged hd hp (by omega), List.getD, List.getElem?_take_of_lt ha, ← List.getD]

end

end Sys2Proof.Machine
end

section
/-! SUPPORT. The stages of DECODE after SYNDROME when they end well, and a DECODE of a codeword damaged within the bound
(45_correction R230, R233). -/

namespace Sys2Proof.Machine

/-! ### The stages on readable operands (43_decoder_front R185, 44_locator R201, R204) -/

section
variable {s : State}

theorem forneySynBody_of_ready (hn : s.lenWork.toNat ≤ s.cfg.n) (hL : s.lenSyn.toNat ≤ 65536)
    (he : s.numEra.toNat ≤ s.lenSyn.toNat) (hS : s.SymsReady .syn s.lenSyn.toNat)
    (hp : s.PositionsReady .era s.numEra.toNat s.lenWork.toNat) :
    forneySynBody s = .ok (s.putFsyn (forney s.field (s.symsOf .syn s.lenSyn.toNat) (s.symsOf .era s.numEra.toNat)
      s.lenWork.toNat)) := by
  rw [forneySynBody_of_le hn hL he, readSyms_of_ready hS, ok_bind, readPositions_of_ready hp, ok_bind, State.putFsyn,
    forney_length, State.symsOf_length, State.symsOf_length, pure_eq_ok]

theorem bmBody_of_ready (hL : s.lenFsyn.toNat ≤ 65536) (hS : s.SymsReady .fsyn s.lenFsyn.toNat)
    (he : 2 * ((bmLocator s.field (s.symsOf .fsyn s.lenFsyn.toNat)).length - 1) ≤ s.lenFsyn.toNat) :
    bmBody s = .ok (s.putLoc (bmLocator s.field (s.symsOf .fsyn s.lenFsyn.toNat))) := by
  rw [bmBody_of_le hL, readSyms_of_ready hS, ok_bind, failIf_bind, if_neg he.not_gt]
  rfl

theorem chienBody_of_ready (h1 : 1 ≤ s.lenLoc.toNat) (h2 : s.lenLoc.toNat ≤ 65536) (hn : s.lenWork.toNat ≤ s.cfg.n)
    (hS : s.SymsReady .loc s.lenLoc.toNat)
    (hp : (chienPositions s.field (s.symsOf .loc s.lenLoc.toNat) s.lenWork.toNat).length + 1 = s.lenLoc.toNat) :
    chienBody s = .ok (s.putErrpos (chienPositions s.field (s.symsOf .loc s.lenLoc.toNat) s.lenWork.toNat)) := by
  rw [chienBody_of_le h1 h2 hn, readSyms_of_ready hS, ok_bind, chien_of_eq (by rw [State.symsOf_length]; omega), ok_bind]
  rfl

theorem correctBody_of_ready {w : List Nat} (hn : s.lenWork.toNat ≤ s.cfg.n) (hL : s.lenSyn.toNat ≤ 65536)
    (hE0 : s.numEra.toNat + s.numErrpos.toNat ≠ 0) (hE : s.numEra.toNat + s.numErrpos.toNat ≤ s.lenSyn.toNat)
    (hW : s.SymsReady .work s.lenWork.toNat) (hS : s.SymsReady .syn (s.numEra.toNat + s.numErrpos.toNat))
    (hp : s.PositionsReady .era s.numEra.toNat s.lenWork.toNat)
    (hq : s.PositionsReady .errpos s.numErrpos.toNat s.lenWork.toNat)
    (hw : correctedCodeword s.field (s.symsOf .work s.lenWork.toNat)
      (s.symsOf .syn (s.numEra.toNat + s.numErrpos.toNat))
      (s.symsOf .era s.numEra.toNat ++ s.symsOf .errpos s.numErrpos.toNat) s.lenWork.toNat = .ok w) :
    correctBody s = .ok (s.setMem (s.mem.store .work w)) := by
  rw [correctBody_of_le hn hL (by omega) (by omega) hE0, failIf_bind, if_neg hE.not_gt, readSyms_of_ready hW, ok_bind,
    readSyms_of_ready hS, ok_bind, readPositions_of_ready hp, ok_bind, readPositions_of_ready hq, ok_bind, hw, ok_bind]
  rfl

end

/-! ### The stages of a DECODE -/

section
variable {s : State} (hl : Loads s)
include hl

theorem Loads.forneySynBody_eq : forneySynBody s.afterSyndrome = .ok s.afterForneySyn := by
  have hst := hl.holds (bs := [.syn, .era, .work]) (by decide)
  have hn := hl.bounded.n_lt
  have hnsym := hl.bounded.nsym_le
  have hL := hl.len_le
  have hera := hl.era_le
  have hlen := s.decodeSyn_length
  have hLS : s.decodeSyn.length = s.afterSyndrome.lenSyn.toNat := hl.zext32_vals .syn
  have hLE : s.decodeEra.length = s.afterSyndrome.numEra.toNat := hl.zext32_vals .era
  obtain ⟨hSready, hsyn⟩ := (hst .syn (by decide)).readBack (s := s.afterSyndrome) hLS hl.syn_lt hl.q_le
  obtain ⟨hEready, hera⟩ := (hst .era (by decide)).readBack (s := s.afterSyndrome) hLE s.decodeEra_lt (by omega)
  refine (forneySynBody_of_ready (s := s.afterSyndrome) hL (by omega) (by omega) hSready hEready).trans ?_
  rw [hsyn, hera]
  rfl

theorem Loads.bmBody_eq (he : 2 * (s.decodeLoc.length - 1) ≤ s.decodeFsyn.length) :
    bmBody s.afterForneySyn = .ok s.afterBm := by
  have hF := hl.holds (bs := [.fsyn, .syn, .era, .work]) (by decide) .fsyn (by decide)
  have hLF : s.decodeFsyn.length = s.afterForneySyn.lenFsyn.toNat := hl.zext32_vals .fsyn
  obtain ⟨hready, hsyms⟩ := hF.readBack (s := s.afterForneySyn) hLF hl.fsyn_lt hl.q_le
  have hn := hl.bounded.n_lt
  have hnsym := hl.bounded.nsym_le
  have hlen := s.decodeFsyn_length
  refine (bmBody_of_ready (s := s.afterForneySyn) (by omega) hready (hsyms.symm ▸ hLF ▸ he)).trans ?_
  rw [hsyms]
  rfl

theorem Loads.chienBody_eq (hp : s.decodePos.length + 1 = s.decodeLoc.length) :
    chienBody s.afterBm = .ok s.afterChien := by
  have hX := hl.holds (bs := [.loc, .fsyn, .syn, .era, .work]) (by decide) .loc (by decide)
  have hLX : s.decodeLoc.length = s.afterBm.lenLoc.toNat := hl.zext32_vals .loc
  have hfit : s.decodeLoc.length ≤ 65536 := hl.count_le .loc
  obtain ⟨hready, hsyms⟩ := hX.readBack (s := s.afterBm) hLX hl.loc_lt hl.q_le
  refine (chienBody_of_ready (s := s.afterBm) (by omega) (by omega) hl.len_le hready
    (hsyms.symm ▸ hLX ▸ hp)).trans ?_
  rw [hsyms]
  rfl

theorem Loads.correctBody_eq {w : List Nat} (hE0 : s.decodeEra.length + s.decodePos.length ≠ 0)
    (hE : s.decodeEra.length + s.decodePos.length ≤ s.cfg.nsym)
    (hw : correctedCodeword s.field s.decodeWork (s.decodeSyn.take (s.decodeEra.length + s.decodePos.length))
      (s.decodeEra ++ s.decodePos) s.lenIn.toNat = .ok w) :
    correctBody s.afterChien = .ok (s.afterChien.setMem (s.afterChien.mem.store .work w)) := by
  have hst := hl.holds (bs := [.errpos, .loc, .fsyn, .syn, .era, .work]) (by decide)
  have hn := hl.bounded.n_lt
  have hnsym := hl.bounded.nsym_le
  have hL := hl.len_le
  have hlen := s.decodeSyn_length
  have hLS : s.decodeSyn.length = s.afterChien.lenSyn.toNat := hl.zext32_vals .syn
  have hLE : s.decodeEra.length = s.afterChien.numEra.toNat := hl.zext32_vals .era
  have hLP : s.decodePos.length = s.afterChien.numErrpos.toNat := hl.zext32_vals .errpos
  obtain ⟨hWready, hwork⟩ := (hst .work (by decide)).readBack (s := s.afterChien) s.decodeWork_length hl.work_lt hl.q_le
  obtain ⟨hSready, hsyn⟩ := (hst .syn (by decide)).readBack (s := s.afterChien) hLS hl.syn_lt hl.q_le
  obtain ⟨hEready, hera⟩ := (hst .era (by decide)).readBack (s := s.afterChien) hLE s.decodeEra_lt (by omega)
  obtain ⟨hPready, hpos⟩ := (hst .errpos (by decide)).readBack (s := s.afterChien) hLP
    (fun p hp => chienPositions_lt hp) (by omega)
  have hle : s.afterChien.numEra.toNat + s.afterChien.numErrpos.toNat ≤ s.afterChien.lenSyn.toNat := by omega
  refine correctBody_of_ready (s := s.afterChien) hL (by omega) (by omega) hle hWready
    ⟨fun i hi => hSready.1 i (hi.trans_le hle), fun i hi => hSready.2 i (hi.trans_le hle)⟩ hEready hPready ?_
  rw [← State.symsOf_take _ _ hle, hsyn, hera, hpos, ← hLE, ← hLP]
  exact hwork.symm ▸ hw

/-- VERIFY on a corrected codeword. -/
theorem Loads.verifyBody_eq {m : Memory} {w : List Nat} (hm : m.Holds .work w) (hlen : w.length = s.lenIn.toNat)
    (hw : ∀ x ∈ w, x < s.cfg.q) (hz : ∀ x ∈ syndromes s.field s.cfg.nsym w, x = 0) :
    verifyBody (s.afterChien.setMem m) = .ok (writeMessage (s.afterChien.setMem m) s.lenIn.toNat w) := by
  obtain ⟨hready, hsyms⟩ := hm.readBack (s := s.afterChien.setMem m) hlen hw hl.q_le
  refine (verifyBody_of_ready (s := s.afterChien.setMem m) hl.len_le hready).trans ?_
  have hall : allZero (syndromes s.field s.cfg.nsym w) = true := allZero_iff.2 hz
  have hsyn : syndromes (s.afterChien.setMem m).field (s.afterChien.setMem m).cfg.nsym
    ((s.afterChien.setMem m).symsOf .work s.lenIn.toNat) = syndromes s.field s.cfg.nsym w := hsyms.symm ▸ rfl
  refine (if_neg ?_).trans (congrArg (fun w => Except.ok (writeMessage (s.afterChien.setMem m) s.lenIn.toNat w)) hsyms)
  rw [show (s.afterChien.setMem m).lenWork.toNat = s.lenIn.toNat from rfl, hsyn, hall]
  decide

end

end Sys2Proof.Machine
end

section
/-! SUPPORT. A DECODE of a codeword damaged within the bound, and what ENCODE leaves for it (42_encoder R163, 45_correction
R230, R233). -/

namespace Sys2Proof.Machine

theorem Damaged.syndromes_zero {f : Field} {q nsym L : Nat} {c w era chg : List Nat}
    (hd : Damaged f q nsym L c w era chg) : ∀ x ∈ syndromes f nsym c, x = 0 :=
  List.forall_mem_map.2 fun i hi => (cwEval_eq_polyEval ..).trans (hd.zero i (List.mem_range.1 hi))

theorem Damaged.eq_of_no_errata {f : Field} {q nsym L : Nat} {c w era chg : List Nat}
    (hd : Damaged f q nsym L c w era chg) (h : (era ++ chg).length = 0) : w = c :=
  eq_of_getD (hd.w_len.trans hd.c_len.symm) fun k hk =>
    hd.same k (hd.w_len ▸ hk) (List.length_eq_zero_iff.1 h ▸ List.not_mem_nil)

/-- The positions of IN that are not erased and hold another symbol than `c`. -/
def State.changedFrom (s : State) (c : List Nat) : List Nat :=
  (List.range s.lenIn.toNat).filter fun i => !s.erasedAt i && s.symAt .inp i != c.getD i 0

theorem State.mem_decodeEra {s : State} {i : Nat} : i ∈ s.decodeEra ↔ i < s.lenIn.toNat ∧ s.erasedAt i = true := by
  rw [State.decodeEra, s.erasuresFrom_receivedOf, List.mem_filter, List.mem_range]

theorem State.mem_changedFrom {s : State} {c : List Nat} {i : Nat} :
    i ∈ s.changedFrom c ↔ i < s.lenIn.toNat ∧ s.erasedAt i = false ∧ s.symAt .inp i ≠ c.getD i 0 := by
  simp [State.changedFrom]

theorem State.decodeWork_getD {s : State} {i : Nat} (hi : i < s.lenIn.toNat) (he : s.erasedAt i = false) :
    s.decodeWork.getD i 0 = s.symAt .inp i := by
  have hi' : i < s.decodeWork.length := by rwa [s.decodeWork_length]
  rw [List.getD_eq_getElem _ _ hi']
  simp [State.decodeWork, s.workingCodeword_receivedOf, he]

/-- The working codeword LOAD leaves is the codeword, damaged at the erased and the changed positions. -/
theorem Loads.damaged {s : State} (hl : Loads s) {c : List Nat} (hlen : c.length = s.lenIn.toNat)
    (hc : ∀ x ∈ c, x < s.cfg.q) (hzero : ∀ i < s.cfg.nsym, polyEval s.field c (s.field.expAt i) = 0)
    (hbound : 2 * (s.changedFrom c).length + s.decodeEra.length ≤ s.cfg.nsym) :
    Damaged s.field s.cfg.q s.cfg.nsym s.lenIn.toNat c s.decodeWork s.decodeEra (s.changedFrom c) where
  nsym_le := hl.bounded.nsym_le
  len_le := hl.len_le
  c_len := hlen
  w_len := s.decodeWork_length
  c_lt := hc
  w_lt := hl.work_lt
  zero := hzero
  pos_lt := List.forall_mem_append.2 ⟨s.decodeEra_lt, fun _ hp => (State.mem_changedFrom.1 hp).1⟩
  nodup := by
    rw [State.decodeEra, s.erasuresFrom_receivedOf]
    refine (List.nodup_range.filter _).append (List.nodup_range.filter _) fun i he hch => ?_
    exact Bool.eq_false_iff.1 (State.mem_changedFrom.1 hch).2.1 (List.mem_filter.1 he).2
  same := fun k hk hno => by
    have hera : s.erasedAt k = false :=
      Bool.eq_false_iff.2 fun he => hno (List.mem_append_left _ (State.mem_decodeEra.2 ⟨hk, he⟩))
    by_contra hne
    rw [State.decodeWork_getD hk hera] at hne
    exact hno (List.mem_append_right _ (State.mem_changedFrom.2 ⟨hk, hera, hne⟩))
  changed := fun k hk => by
    obtain ⟨hk, hera, hne⟩ := State.mem_changedFrom.1 hk
    rwa [State.decodeWork_getD hk hera]
  bound := hbound

/-- DECODE writes the message of the codeword: by the short-circuit where no symbol is wrong, and else by the stages, each
of which ends well. -/
theorem Loads.execDecode_of_damaged {s : State} (hl : Loads s) (hc : s.configured = true) {A : Type*} [CommRing A]
    [IsDomain A] {v : Nat → A} {α : A} (hg : s.field.Generated s.cfg.q v α)
    (hlast : ∀ S i, (repeatUp 0 i ([1], [1]) (bmRound s.field S)).1.getLast? = some 1) {c chg : List Nat}
    (hd : Damaged s.field s.cfg.q s.cfg.nsym s.lenIn.toNat c s.decodeWork s.decodeEra chg) :
    ∃ x : State, x.cfg = s.cfg ∧ execDecode s = .next ((writeMessage x s.lenIn.toNat c).finish .ok) := by
  have hrun := hl.execDecode_eq hc
  by_cases hz : allZero s.decodeSyn = true
  · rw [if_pos hz, hg.eq_of_syndromes_zero hd (allZero_iff.1 hz)] at hrun
    exact ⟨s.afterSyndrome, rfl, hrun⟩
  have hbound := hd.bound
  obtain ⟨hperm, hloc⟩ := hg.chienPositions_damaged hd hlast
  have hpos : s.decodePos.length = chg.length := hperm.length_eq
  have hloc : s.decodeLoc.length = chg.length + 1 := hloc
  have hfsyn := s.decodeFsyn_length
  have herrata : (s.decodeEra ++ s.decodePos).Perm (s.decodeEra ++ chg) := hperm.append_left _
  have hE0 : s.decodeEra.length + s.decodePos.length ≠ 0 := fun h0 => by
    have hwork := hd.eq_of_no_errata (by rw [List.length_append]; omega)
    exact hz (allZero_iff.2 (by rw [State.decodeSyn, hwork]; exact hd.syndromes_zero))
  have hfix := hg.correctedCodeword_damaged hd herrata
  rw [List.length_append] at hfix
  refine ⟨s.afterChien.setMem (s.afterChien.mem.store .work c), rfl, ?_⟩
  rw [if_neg hz, decodeErrata, runStage_of_ok hl.forneySynBody_eq, runStage_of_ok (hl.bmBody_eq (by omega)),
    runStage_of_ok (hl.chienBody_eq (by omega)), runStage_of_ok (hl.correctBody_eq hE0 (by omega) hfix),
    runStage_of_ok (hl.verifyBody_eq (Memory.holds_store _ _ _) hd.c_len hd.c_lt hd.syndromes_zero)] at hrun
  exact hrun

/-! ### Encoded blocks (42_encoder R163) -/

theorem Field.Closed.encodeBlock_lt {f : Field} {q : Nat} (hf : f.Closed q) (nsym : Nat) {msg : List Nat}
    (hmsg : ∀ c ∈ msg, c < q) : ∀ c ∈ encodeBlock f nsym msg, c < q := by
  rw [encodeBlock_eq]
  exact List.forall_mem_append.2 ⟨hmsg, fun c hc => hf.encodeBuffer_lt nsym hmsg _ c (List.mem_of_mem_drop hc)⟩

theorem PrimitiveConstant.encodeBlock_zero {m prim : Nat} (h : PrimitiveConstant m prim) {nsym : Nat} {msg : List Nat}
    (hmsg : ∀ x ∈ msg, x < 2 ^ m) : ∀ i < nsym, polyEval (constField m prim)
      (encodeBlock (constField m prim) nsym msg) ((constField m prim).expAt i) = 0 := fun i hi =>
  let _ := h.symbolRing
  have hv := h.embeds_toSymbol
  hv.polyEval_encodeBlock (hv.exp_lt i) h.one_lt hmsg (h.polyEval_generator hi) fun _ => h.one_gfMul

theorem State.symsOf_lt {s : State} {b : Buf} {L : Nat} (hr : s.SymsReady b L) : ∀ x ∈ s.symsOf b L, x < s.cfg.q :=
  List.forall_mem_map.2 fun i hi => hr.2 i (List.mem_range.1 hi)

theorem encodeBlock_take (f : Field) (nsym : Nat) (msg : List Nat) :
    (encodeBlock f nsym msg).take msg.length = msg := by
  rw [encodeBlock_eq, List.take_left]

theorem cfgValid_of_inv {s : State} (hs : s.Inv) (hc : s.configured = true) :
    s.params.wellFormed = true ∧ s.cfgValid = true :=
  ⟨hs.1, State.cfgInv_of_configured hc ▸ hs.2.1⟩

/-- The latched constant of a state that meets the invariant, if primitive, is of its degree. -/
theorem primitiveConstant_of_inv {s : State} (hs : s.Inv) (hc : s.configured = true)
    (hp : Primitive s.cfg.n s.cfg.q s.cfg.prim) :
    PrimitiveConstant s.cfg.m s.cfg.prim ∧ s.cfg.q = 2 ^ s.cfg.m ∧ s.field = constField s.cfg.m s.cfg.prim := by
  obtain ⟨hparams, hv⟩ := cfgValid_of_inv hs hc
  obtain ⟨h2, h16, hq, hn, hf⟩ := field_of_cfgValid hv
  obtain ⟨-, -, -, -, -, hprim, -, -⟩ := s.cfgValid_iff.1 hv
  obtain ⟨hlo, hhi⟩ := primOf_degree hparams h2 h16
  rw [← hprim] at hlo hhi
  exact ⟨⟨h2, hlo, hhi, by rwa [hn, hq] at hp⟩, hq, hf⟩

theorem PrimitiveConstant.bm_getLast? {m prim : Nat} (h : PrimitiveConstant m prim) (S : List Nat) (i : Nat) :
    (repeatUp 0 i ([1], [1]) (bmRound (constField m prim) S)).1.getLast? = some 1 :=
  repeatUp_invariant (P := fun p : List Nat × List Nat => p.1.getLast? = some 1) rfl
    fun j _ _ _ hp => h.bmRound_getLast? S j hp

/-- DECODE of a block that differs from an encoded message within the bound (R233, item 2). -/
theorem execDecode_of_inv {u : State} (hu : u.Inv) (hc : u.configured = true)
    (hprim : Primitive u.cfg.n u.cfg.q u.cfg.prim) {msg : List Nat} (hmsg : ∀ x ∈ msg, x < u.cfg.q)
    (hL : u.lenIn.toNat = msg.length + u.cfg.nsym) (hle : u.lenIn.toNat ≤ u.cfg.n)
    (hr : u.ReceivedReady u.lenIn.toNat)
    (hbound : 2 * (u.changedFrom (encodeBlock u.field u.cfg.nsym msg)).length + u.decodeEra.length ≤ u.cfg.nsym) :
    ∃ v, exec .decode u = .next v ∧ v.code = .ok ∧ v.lenOut = zext32 msg.length ∧ v.symsOf .out msg.length = msg := by
  obtain ⟨h, hq, hf⟩ := primitiveConstant_of_inv hu hc hprim
  have hl : Loads u := .of_inv hu hc hle hr (by omega)
  let _ := h.symbolRing
  have := h.isDomain
  have hg := h.generated
  have hlast := h.bm_getLast?
  have hzero := h.encodeBlock_zero (nsym := u.cfg.nsym) (hq ▸ hmsg)
  rw [← hf] at hg hlast hzero
  have hlen : (encodeBlock u.field u.cfg.nsym msg).length = u.lenIn.toNat := by rw [encodeBlock_length, hL]
  have hd := hl.damaged hlen (hl.closed.encodeBlock_lt _ hmsg) hzero hbound
  obtain ⟨x, hx, hrun⟩ := hl.execDecode_of_damaged hc (hq ▸ hg) hlast hd
  have hk : u.lenIn.toNat - x.cfg.nsym = msg.length := by rw [hx, hL, Nat.add_sub_cancel]
  have hout := Memory.holds_store x.mem .out ((encodeBlock u.field u.cfg.nsym msg).take (u.lenIn.toNat - x.cfg.nsym))
  rw [hk, encodeBlock_take] at hout
  refine ⟨_, hrun, rfl, congrArg zext32 hk, Memory.Holds.symsOf ?_ rfl fun y hy => (hmsg y hy).trans_le hl.q_le⟩
  rw [State.finish, writeMessage, hk, encodeBlock_take]
  exact hout

theorem erasedField_symWord (v : Nat) (w : Word) : erasedField (symWord v &&& w) = false := by
  simp [erasedField, symWord]

section
variable {s t : State} (hs : s.Inv) (hc : s.configured = true) (hlen : s.lenIn.toNat + s.cfg.nsym ≤ s.cfg.n)
  (hr : s.MessageReady s.lenIn.toNat) (ht : exec .encode s = .next t)
include hs hc hlen hr ht

/-- What ENCODE leaves in LEN_OUT and OUT. -/
theorem encode_leaves : t.lenOut.toNat = s.lenIn.toNat + s.cfg.nsym ∧
    t.mem.Holds .out (encodeBlock s.field s.cfg.nsym (s.symsOf .inp s.lenIn.toNat)) := by
  obtain ⟨hp, hv⟩ := cfgValid_of_inv hs hc
  have hn := (State.Bounded.of_cfgValid hp hv).n_lt
  have hrun := ((encodeResult s hc).2 hlen).2.2 hr
  obtain rfl := Host.Outcome.next.inj (ht.symm.trans hrun)
  exact ⟨zext32_toNat (by omega), Memory.holds_store _ _ _⟩

/-- The symbols ENCODE leaves in OUT. -/
theorem encode_leaves_symAt {i : Nat} (hi : i < t.lenOut.toNat) :
    t.symAt .out i = (encodeBlock s.field s.cfg.nsym (s.symsOf .inp s.lenIn.toNat)).getD i 0 := by
  obtain ⟨hp, hv⟩ := cfgValid_of_inv hs hc
  obtain ⟨hclosed, -, hq⟩ := closed_of_cfgValid hp hv
  obtain ⟨hlenOut, hout⟩ := encode_leaves hs hc hlen hr ht
  have hlt := hclosed.encodeBlock_lt s.cfg.nsym (State.symsOf_lt hr.1)
  have hi : i < (encodeBlock s.field s.cfg.nsym (s.symsOf .inp s.lenIn.toNat)).length := by
    rwa [encodeBlock_length, s.symsOf_length, ← hlenOut]
  rw [hout.symAt (fun x hx => (hlt x hx).trans_le hq) hi, List.getD_eq_getElem _ _ hi]

theorem encode_leaves_symAt_lt {i : Nat} (hi : i < t.lenOut.toNat) : t.symAt .out i < s.cfg.q := by
  obtain ⟨hp, hv⟩ := cfgValid_of_inv hs hc
  obtain ⟨hclosed, -, -⟩ := closed_of_cfgValid hp hv
  rw [encode_leaves_symAt hs hc hlen hr ht hi]
  exact getD_lt_of_forall hclosed.pos (hclosed.encodeBlock_lt s.cfg.nsym (State.symsOf_lt hr.1)) i

end

end Sys2Proof.Machine
end

section
/-! PROOFS. The statements of 45_correction on decoding an encoded block. -/

namespace Sys2Proof.Machine

/-- Settles O9: Berlekamp-Massey finds the locator of the changed symbols, since they are at most half the Forney
syndromes, CHIEN its roots, and Forney's formula the values. -/
theorem decodesWithinTheBound : Obligations.DecodesWithinTheBound := by
  intro s t u hs hc hprim hlen hr ht hu hcu hparams hcfg hlenIn hrec erased changed hbound
  obtain ⟨hlenOut, -⟩ := encode_leaves hs hc hlen hr ht
  have hfield : u.field = s.field := by
    rw [(primitiveConstant_of_inv hu hcu (hcfg ▸ hprim)).2.2, (primitiveConstant_of_inv hs hc hprim).2.2, hcfg]
  have hmsg : ∀ x ∈ s.symsOf .inp s.lenIn.toNat, x < u.cfg.q := hcfg ▸ State.symsOf_lt hr.1
  have hL : u.lenIn.toNat = (s.symsOf .inp s.lenIn.toNat).length + u.cfg.nsym := by
    rw [hlenIn, hlenOut, s.symsOf_length, hcfg]
  have hera : u.decodeEra = erased := by rw [State.decodeEra, u.erasuresFrom_receivedOf, hlenIn]
  have hchanged : u.changedFrom (encodeBlock u.field u.cfg.nsym (s.symsOf .inp s.lenIn.toNat)) = changed := by
    rw [State.changedFrom, hlenIn, hfield, hcfg]
    exact List.filter_congr fun i hi => by rw [encode_leaves_symAt hs hc hlen hr ht (List.mem_range.1 hi)]
  obtain ⟨v, hrun, hcode, hvlen, hsyms⟩ := execDecode_of_inv hu hcu (hcfg ▸ hprim) hmsg hL
    (by rwa [hlenIn, hlenOut, hcfg]) (hlenIn ▸ hrec) (by rwa [hchanged, hera, hcfg])
  rw [s.symsOf_length] at hvlen hsyms
  exact ⟨v, hrun, hcode, hvlen.trans (zext32_word _), hsyms⟩

/-- Settles O36: no entry of OUT reads as erased, so a copy of it has no erasure and no change. -/
theorem cleanBlockRoundTrip : Obligations.CleanBlockRoundTrip := by
  intro s t u hs hc hprim hlen hr ht hu hcu hparams hcfg hlenIn hcopy
  obtain ⟨hlenOut, hout⟩ := encode_leaves hs hc hlen hr ht
  have hentry {i : Nat} (hi : i < t.lenOut.toNat) : ∃ v, u.mem.entry? .inp i = some (symWord v &&& Buf.out.mask) :=
    ⟨_, (hcopy i hi).trans (hout i (by rwa [encodeBlock_length, s.symsOf_length, ← hlenOut]))⟩
  have hera {i : Nat} (hi : i < t.lenOut.toNat) : u.erasedAt i = false := by
    obtain ⟨v, hv⟩ := hentry hi
    rw [State.erasedAt, hv, Option.getD_some, erasedField_symWord]
  have hsym {i : Nat} (hi : i < t.lenOut.toNat) : u.symAt .inp i = t.symAt .out i := by
    rw [State.symAt, hcopy i hi, State.symAt]
  have hrec : u.ReceivedReady t.lenOut.toNat := by
    refine ⟨fun i hi => ?_, fun i hi _ => ?_⟩
    · obtain ⟨v, hv⟩ := hentry hi
      rw [hv, Option.isSome_some]
    · rw [hsym hi, hcfg]
      exact encode_leaves_symAt_lt hs hc hlen hr ht hi
  refine decodesWithinTheBound s t u hs hc hprim hlen hr ht hu hcu hparams hcfg hlenIn hrec ?_
  have herased : ((List.range t.lenOut.toNat).filter fun i => u.erasedAt i) = [] :=
    List.filter_eq_nil_iff.2 fun i hi => Bool.eq_false_iff.1 (hera (List.mem_range.1 hi))
  have hchanged : ((List.range t.lenOut.toNat).filter fun i =>
      !u.erasedAt i && u.symAt .inp i != t.symAt .out i) = [] :=
    List.filter_eq_nil_iff.2 fun i hi => by rw [hsym (List.mem_range.1 hi)]; simp
  rw [herased, hchanged]
  exact Nat.zero_le _

end Sys2Proof.Machine
end

section
/-! SUPPORT. The codes each command can fail with (60_exceptions R251). -/

namespace Sys2Proof.Machine

/-! ### The code a command completes with -/

/-- A run that goes on completes with OK or a code listed (R253). -/
def CompletesWith (codes : List StatusCode) (r : Result) : Prop := ∀ t, r = .next t → t.code ∈ .ok :: codes

section
variable {codes : List StatusCode} {C : StatusCode → Prop} {P : State → Prop} {s : State}

theorem completesWith_ok (s : State) : CompletesWith codes (.next (s.finish .ok)) := by
  rintro _ ⟨⟩
  exact List.mem_cons_self

theorem Ends.command_completesWith {body : State → Except Stop State} (hb : Ends (· ∈ codes) P (body s)) :
    CompletesWith codes (command s body) := by
  intro t ht
  rcases command_cases ht with ⟨u, -, rfl⟩ | ⟨c, hc, rfl⟩
  · exact List.mem_cons_self
  · exact List.mem_cons_of_mem _ (hb.eq_fail hc)

theorem Ends.configuredCommand_completesWith {body : State → Except Stop State} (hb : Ends (· ∈ codes) P (body s))
    (hc : s.configured = true) : CompletesWith codes (configuredCommand s body) := by
  rw [configuredCommand_of_configured hc]
  exact hb.command_completesWith

/-- A stage of DECODE completes the run with its own code, or what follows it does (R230). -/
theorem Ends.runStage_completesWith {stage : State → Except Stop State} {rest : State → Result}
    (hst : Ends C P (stage s)) (hC : ∀ c, C c → c ∈ codes) (hrest : ∀ u, P u → CompletesWith codes (rest u)) :
    CompletesWith codes (runStage stage s rest) := by
  intro t ht
  rcases hst.runStage_cases ht with ⟨u, hu, ht⟩ | ⟨c, hc, rfl⟩
  · exact hrest u hu t ht
  · exact List.mem_cons_of_mem _ (hC c hc)

end

/-- What two facts say together about how one computation ends. -/
theorem Ends.and {α : Type} {C D : StatusCode → Prop} {P Q : α → Prop} {x : Except Stop α} (h : Ends C P x)
    (h' : Ends D Q x) : Ends (fun c => C c ∧ D c) (fun a => P a ∧ Q a) x := by
  cases h with
  | ok h => exact .ok ⟨h, h'.eq_ok rfl⟩
  | fail h => exact .fail ⟨h, h'.eq_fail rfl⟩
  | fault f => exact .fault f

/-- What is said of how a computation ends may be weakened. -/
theorem Ends.imp {α : Type} {C D : StatusCode → Prop} {P Q : α → Prop} {x : Except Stop α} (h : Ends C P x)
    (hC : ∀ c, C c → D c) (hP : ∀ a, P a → Q a) : Ends D Q x := by
  cases h with
  | ok h => exact .ok (hP _ h)
  | fail h => exact .fail (hC _ h)
  | fault f => exact .fault f

/-! ### The commands' own codes -/

section
variable {C : StatusCode → Prop} {s : State}

theorem ends_scalarSym (r : Word) (h : C .invalidSymbol) : Ends C (fun _ => True) (scalarSym s r) :=
  (ends_failIf fun _ => h).bind fun _ _ => .ok trivial

theorem ends_readLen (r : Word) (h : C .operandRange) : Ends C (fun _ => True) (readLen r) :=
  (ends_failIf fun _ => h).bind fun _ _ => .ok trivial

theorem ends_pure (s : State) : Ends C (fun _ => True) (pure s : Except Stop State) := .ok trivial

theorem ends_genPolyBody (s : State) : Ends C (fun _ => True) (genPolyBody s) := .ok trivial

theorem ends_configureBody (h : C .configurationError) : Ends C (fun _ => True) (configureBody s) :=
  (ends_failIf fun _ => h).bind fun _ _ => (ends_failIf fun _ => h).bind fun _ _ => .ok trivial

theorem ends_gfMulBody (h : C .invalidSymbol) : Ends C (fun _ => True) (gfMulBody s) :=
  (ends_scalarSym _ h).bind fun _ _ => (ends_scalarSym _ h).bind fun _ _ => .ok trivial

theorem ends_gfDivBody (h : C .invalidSymbol) (hd : C .divisionByZero) : Ends C (fun _ => True) (gfDivBody s) :=
  (ends_scalarSym _ h).bind fun _ _ => (ends_scalarSym _ h).bind fun _ _ =>
    Ends.bind (P := fun _ => True) ((ends_failIf fun _ => hd).bind fun _ _ => .ok trivial) fun _ _ => .ok trivial

theorem ends_gfExpBody (h : C .operandRange) : Ends C (fun _ => True) (gfExpBody s) :=
  (ends_failIf fun _ => h).bind fun _ _ => .ok trivial

theorem ends_gfLogBody (h : C .invalidSymbol) (hr : C .operandRange) : Ends C (fun _ => True) (gfLogBody s) :=
  (ends_failIf fun _ => h).bind fun _ _ => (ends_failIf fun _ => hr).bind fun _ _ => .ok trivial

theorem ends_polyScaleBody (h : C .invalidSymbol) (hr : C .operandRange) : Ends C (fun _ => True) (polyScaleBody s) :=
  (ends_readLen _ hr).bind fun _ _ => (ends_readSyms fun _ => h).bind fun _ _ => (ends_scalarSym _ h).bind fun _ _ =>
    .ok trivial

theorem ends_polyAddBody (h : C .invalidSymbol) (hr : C .operandRange) : Ends C (fun _ => True) (polyAddBody s) :=
  (ends_readLen _ hr).bind fun _ _ => (ends_readLen _ hr).bind fun _ _ => (ends_readSyms fun _ => h).bind fun _ _ =>
    (ends_readSyms fun _ => h).bind fun _ _ => .ok trivial

theorem ends_polyMulBody (h : C .invalidSymbol) (hr : C .operandRange) : Ends C (fun _ => True) (polyMulBody s) :=
  (ends_readLen _ hr).bind fun _ _ => (ends_readLen _ hr).bind fun _ _ => (ends_readSyms fun _ => h).bind fun _ _ =>
    (ends_readSyms fun _ => h).bind fun _ _ => .ok trivial

theorem ends_polyEvalBody (h : C .invalidSymbol) (hr : C .operandRange) : Ends C (fun _ => True) (polyEvalBody s) :=
  (ends_readLen _ hr).bind fun _ _ => (ends_readSyms fun _ => h).bind fun _ _ => (ends_scalarSym _ h).bind fun _ _ =>
    .ok trivial

theorem ends_readMessageSym (i : Nat) (h : C .invalidSymbol) :
    Ends C (fun v => True ∧ v = s.symAt .inp i) (readMessageSym s i) := by
  refine (ends_readIn i).bind fun _ ⟨_, hp⟩ => ?_
  subst hp
  exact (ends_failIf fun _ => h).bind fun _ _ => (ends_failIf fun _ => h).bind fun _ _ => .ok ⟨trivial, rfl⟩

theorem ends_encodeBody (hL : C .inputTooLong) (h : C .invalidSymbol) : Ends C (fun _ => True) (encodeBody s) :=
  (ends_failIf fun _ => hL).bind fun _ _ => (ends_readRange fun j _ => ends_readMessageSym j h).bind fun _ _ =>
    .ok trivial

theorem ends_loadBody_codes (hL : C .inputTooLong) (h : C .invalidSymbol) (he : C .tooManyErasures) :
    Ends C (fun _ => True) (loadBody s) :=
  (ends_failIf fun _ => hL).bind fun _ _ => (ends_readReceived h).bind fun _ _ =>
    (ends_failIf fun _ => he).bind fun _ _ => .ok trivial

end

/-! ### The counts a stage passes on (44_locator R201, R204, 45_correction R222) -/

section
variable {s : State}

/-- A round of Berlekamp-Massey does not shorten err (R200). -/
theorem length_le_bmRound_length (f : Field) (S : List Nat) (i : Nat) (p : List Nat × List Nat) :
    p.1.length ≤ (bmRound f S i p).1.length := by
  unfold bmRound
  dsimp only
  split
  · split <;> simp
  · exact le_rfl

theorem one_le_bmLocator_length (f : Field) (S : List Nat) : 1 ≤ (bmLocator f S).length :=
  repeatUp_invariant (P := fun p : List Nat × List Nat => 1 ≤ p.1.length) le_rfl
    fun i p _ _ h => h.trans (length_le_bmRound_length f S i p)

/-- A locator BM accepts is of a degree at most half the number of syndromes (R201). -/
theorem ends_bmBody_degree (s : State) :
    Ends (fun _ => True) (fun u => 2 * (u.lenLoc.toNat - 1) ≤ s.lenFsyn.toNat) (bmBody s) := by
  refine (ends_failIf fun _ => trivial).bind fun _ _ => (ends_readSyms fun _ => trivial).bind fun S _ =>
    (ends_failIf fun _ => trivial).bind fun _ he => .ok ?_
  have := zext32_toNat_le (bmLocator s.field S).length
  dsimp only
  omega

/-- CHIEN finds no more positions than the locator's degree (R204). -/
theorem ends_chienBody_count (h1 : 1 ≤ s.lenLoc.toNat) (h2 : s.lenLoc.toNat ≤ 65536) :
    Ends (· ≠ .operandRange) (fun u => u.numErrpos.toNat ≤ s.lenLoc.toNat - 1) (chienBody s) := by
  refine (ends_failIf (by omega)).bind fun _ _ => (ends_readNmess fun _ => nofun).bind fun L _ =>
    (ends_readSyms fun _ => nofun).bind fun loc ⟨_, hloc⟩ => ?_
  refine Ends.bind (P := fun pos => pos.length = loc.length - 1)
    ((ends_failIf fun _ => nofun).bind fun _ hp => .ok (not_not.1 hp)) fun pos hp => .ok ?_
  rw [hloc, State.symsOf_length] at hp
  exact hp ▸ zext32_toNat_le pos.length

/-- CORRECT of no more errata than syndromes, at positions of the codeword, has its operands in range (R222). -/
theorem ends_correctBody_inRange (hL : s.lenSyn.toNat ≤ 65536) (hE : s.numEra.toNat + s.numErrpos.toNat ≤ s.lenSyn.toNat)
    (hera : s.PositionsReady .era s.numEra.toNat s.lenWork.toNat)
    (hpos : s.PositionsReady .errpos s.numErrpos.toNat s.lenWork.toNat) :
    Ends (· ≠ .operandRange) (fun _ => True) (correctBody s) := by
  refine (ends_readNmess fun _ => nofun).bind fun _ hnm => ?_
  subst hnm
  refine (ends_failIf (by omega)).bind fun _ _ => (ends_failIf (by omega)).bind fun _ _ => ?_
  dsimp only
  split
  · exact .ok trivial
  · exact (ends_failIf (by omega)).bind fun _ _ => (ends_readSyms fun _ => nofun).bind fun _ _ =>
      (ends_readSyms fun _ => nofun).bind fun _ _ => (ends_readPositions fun h => absurd hera h).bind fun _ _ =>
      (ends_readPositions fun h => absurd hpos h).bind fun _ _ =>
      Ends.bind (P := fun _ => True) ((ends_magnitudes _ _ _ _ _ nofun).bind fun _ _ => .ok trivial)
        fun _ _ => .ok trivial

end

/-! ### The codes of a DECODE whose LOAD ended well (45_correction R230) -/

/-- The codes R251 lists for DECODE. -/
def decodeCodes : List StatusCode :=
  [.inputTooLong, .invalidSymbol, .tooManyErasures, .tooManyErrors, .errorLocationFailure, .divisionByZero,
    .correctionVerificationFailure]

section
variable {s : State} (hl : Loads s)
include hl

theorem Loads.ends_bm_degree : Ends (· = .tooManyErrors)
    (fun u => u = s.afterBm ∧ 2 * (s.decodeLoc.length - 1) ≤ s.decodeFsyn.length) (bmBody s.afterForneySyn) := by
  have hF : s.decodeFsyn.length = s.afterForneySyn.lenFsyn.toNat := hl.zext32_vals .fsyn
  have hX : s.decodeLoc.length = s.afterBm.lenLoc.toNat := hl.zext32_vals .loc
  refine (hl.ends_bm.and (ends_bmBody_degree _)).imp (fun _ h => h.1) ?_
  rintro _ ⟨rfl, hdeg⟩
  exact ⟨rfl, hX ▸ hF ▸ hdeg⟩

theorem Loads.ends_chien_count : Ends (· = .errorLocationFailure)
    (fun u => u = s.afterChien ∧ s.decodePos.length ≤ s.decodeLoc.length - 1) (chienBody s.afterBm) := by
  have hX : s.decodeLoc.length = s.afterBm.lenLoc.toNat := hl.zext32_vals .loc
  have hP : s.decodePos.length = s.afterChien.numErrpos.toNat := hl.zext32_vals .errpos
  have h1 : 1 ≤ s.decodeLoc.length := one_le_bmLocator_length ..
  have h2 : s.decodeLoc.length ≤ 65536 := hl.count_le .loc
  refine (hl.ends_chien.and (ends_chienBody_count (hX ▸ h1) (hX ▸ h2))).imp (fun _ h => h.1.resolve_left h.2) ?_
  rintro _ ⟨rfl, hcount⟩
  exact ⟨rfl, hP ▸ hX ▸ hcount⟩

theorem Loads.ends_correct_inRange (hE : s.decodeEra.length + s.decodePos.length ≤ s.cfg.nsym) :
    Ends (· = .divisionByZero) (Corrected s) (correctBody s.afterChien) := by
  have hst := hl.holds (bs := [.errpos, .loc, .fsyn, .syn, .era, .work]) (by decide)
  obtain ⟨hn, hnsym, -, -⟩ := hl.bounded
  have hL := hl.len_le
  have hlen := s.decodeSyn_length
  have hLS : s.decodeSyn.length = s.afterChien.lenSyn.toNat := hl.zext32_vals .syn
  have hLE : s.decodeEra.length = s.afterChien.numEra.toNat := hl.zext32_vals .era
  have hLP : s.decodePos.length = s.afterChien.numErrpos.toNat := hl.zext32_vals .errpos
  have hera : s.afterChien.PositionsReady .era s.afterChien.numEra.toNat s.lenIn.toNat :=
    (hst .era (by decide)).ready hLE.ge s.decodeEra_lt (by omega)
  have hpos : s.afterChien.PositionsReady .errpos s.afterChien.numErrpos.toNat s.lenIn.toNat :=
    (hst .errpos (by decide)).ready hLP.ge (fun _ hp => chienPositions_lt hp) (by omega)
  exact (hl.ends_correct.and (ends_correctBody_inRange (by omega) (by omega) hera hpos)).imp
    (fun _ h => h.1.resolve_left h.2) fun _ h => h.1

/-- At most half the Forney syndromes are errors, so errors and erasures together are at most nsym. -/
theorem Loads.errata_le (hdeg : 2 * (s.decodeLoc.length - 1) ≤ s.decodeFsyn.length)
    (hcount : s.decodePos.length ≤ s.decodeLoc.length - 1) :
    s.decodeEra.length + s.decodePos.length ≤ s.cfg.nsym := by
  have hera := hl.era_le
  have hF := s.decodeFsyn_length
  omega

theorem Loads.decodeErrata_completesWith : CompletesWith decodeCodes (decodeErrata s.afterSyndrome) := by
  refine hl.ends_forneySyn.runStage_completesWith nofun ?_
  rintro _ rfl
  refine hl.ends_bm_degree.runStage_completesWith (by simp [decodeCodes]) ?_
  rintro _ ⟨rfl, hdeg⟩
  refine hl.ends_chien_count.runStage_completesWith (by simp [decodeCodes]) ?_
  rintro _ ⟨rfl, hcount⟩
  have hE := hl.errata_le hdeg hcount
  refine (hl.ends_correct_inRange hE).runStage_completesWith (by simp [decodeCodes]) fun u hu => ?_
  exact (hl.ends_verify hu).runStage_completesWith (by simp [decodeCodes]) fun v _ => completesWith_ok v

end

theorem decodeStages_completesWith {s : State} (hs : s.Inv) (hc : s.configured = true) :
    CompletesWith decodeCodes (decodeStages s) := by
  have hcodes := ends_loadBody_codes (C := (· ∈ decodeCodes)) (s := s) (by decide) (by decide) (by decide)
  refine ((ends_loadBody s).and hcodes).runStage_completesWith (fun _ h => h.2) ?_
  rintro _ ⟨⟨hL, hr, he, rfl⟩, -⟩
  have hl : Loads s := .of_inv hs hc hL hr he
  refine hl.ends_syndrome.runStage_completesWith nofun ?_
  rintro _ rfl
  rw [hl.synAllZero_eq]
  cases allZero s.decodeSyn with
  | false => exact hl.decodeErrata_completesWith
  | true => exact (ends_shortCircuit (C := fun _ => False) _).runStage_completesWith nofun fun u _ => completesWith_ok u

theorem execDecode_completesWith {s : State} (hs : s.Inv) (hc : s.configured = true) :
    CompletesWith decodeCodes (execDecode s) := by
  have hconf : (do needConfigured s; pure s : Except Stop State) = .ok s := by simp [needConfigured, hc]
  rw [execDecode, runStage_of_ok hconf]
  exact decodeStages_completesWith hs hc

end Sys2Proof.Machine
end

section
/-! PROOFS. The statement of 60_exceptions on the codes of each command. -/

namespace Sys2Proof.Machine

/-- Settles O38: each check of a command's pseudocode names its code; in a DECODE the checks of the stages after LOAD
that could answer OPERAND_RANGE pass on what the stages before them stored. -/
theorem failureCodesOfEachCommand : Obligations.FailureCodesOfEachCommand := by
  intro i s t hs hc h
  have any {codes : List StatusCode} {c : StatusCode} {p : Prop} (h : c ∈ codes := by decide) : p → c ∈ codes :=
    fun _ => h
  cases i with
  | nop => exact Ends.command_completesWith (ends_pure s) t h
  | configure => exact (ends_configureBody (by decide)).command_completesWith t h
  | gfMul => exact (ends_gfMulBody (by decide)).configuredCommand_completesWith hc t h
  | gfDiv => exact (ends_gfDivBody (by decide) (by decide)).configuredCommand_completesWith hc t h
  | gfExp => exact (ends_gfExpBody (by decide)).configuredCommand_completesWith hc t h
  | gfLog => exact (ends_gfLogBody (by decide) (by decide)).configuredCommand_completesWith hc t h
  | polyScale => exact (ends_polyScaleBody (by decide) (by decide)).configuredCommand_completesWith hc t h
  | polyAdd => exact (ends_polyAddBody (by decide) (by decide)).configuredCommand_completesWith hc t h
  | polyMul => exact (ends_polyMulBody (by decide) (by decide)).configuredCommand_completesWith hc t h
  | polyEval => exact (ends_polyEvalBody (by decide) (by decide)).configuredCommand_completesWith hc t h
  | genPoly => exact (ends_genPolyBody s).configuredCommand_completesWith hc t h
  | encode => exact (ends_encodeBody (by decide) (by decide)).configuredCommand_completesWith hc t h
  | load => exact (ends_loadBody_codes (by decide) (by decide) (by decide)).configuredCommand_completesWith hc t h
  | syndrome => exact (ends_syndromeBody any any).configuredCommand_completesWith hc t h
  | forneySyn => exact (ends_forneySynBody any any any any any).configuredCommand_completesWith hc t h
  | bm => exact (ends_bmBody any any (by decide)).configuredCommand_completesWith hc t h
  | chien => exact (ends_chienBody (by decide) any any (by decide)).configuredCommand_completesWith hc t h
  | correct =>
    exact (ends_correctBody any (by decide) any (fun _ => any) (by decide)).configuredCommand_completesWith hc t h
  | verify => exact (ends_verifyBody any any (by decide)).configuredCommand_completesWith hc t h
  | decode => exact execDecode_completesWith hs hc t h

end Sys2Proof.Machine
end

section
/-! SUPPORT. Accesses while RST is asserted (70_reset_and_hazards R281), and the host's waits: a WAIT for BUSY = 0 and a
wait for IRQ, move by move until the engine's turn (R290, R287). -/

namespace Sys2Proof.Machine

/-! ### Under RST (70_reset_and_hazards R281) -/

theorem readTarget_of_rst {s : State} (hr : s.rst = true) (tg : Target) :
    s.readTarget tg = s.draw (BitVec.allOnes 32) := by simp [State.readTarget, hr]

theorem writeTarget_of_rst {s : State} (hr : s.rst = true) (tg : Target) (v : Word) : s.writeTarget tg v = s := by
  simp [State.writeTarget, hr]

/-! ### One waiting move of the host -/

theorem step_of_host_cons {s : State} {op : HostOp} {rest : List HostOp} (h : s.engineTurn = false)
    (hh : s.host = op :: rest) : step s = hostMove { s with host := rest, wait := s.wait - 1 } op := by
  rw [step_of_hostTurn h, hostTurn, hh]

theorem engineTurn_of_wait {s : State} {op : HostOp} {rest : List HostOp} (hw : s.wait ≠ 0)
    (hh : s.host = op :: rest) : s.engineTurn = false :=
  engineTurn_eq_false (.inr (.inr ⟨hw, by simp [hh]⟩))

/-- Bit 0 of STATUS is BUSY (R23). -/
theorem statusWord_and_one_of_busy {s : State} (hb : s.busy = true) : s.statusWord &&& 1 ≠ 0 := by
  intro h
  have hbit : (s.statusWord &&& 1).getLsbD 0 = true := by rw [BitVec.getLsbD_and, getLsbD_statusWord, hb]; rfl
  rw [h] at hbit
  cases hbit

/-- What a WAIT records of its read of STATUS. -/
def State.waitRead (s : State) : HostRead :=
  { addr := Reg.status.offset, value := s.statusWord, use := .discard }

/-- A WAIT while BUSY reads STATUS, finds BUSY at 1 and stays the host's next move (R97). -/
theorem hostMove_waitOp_of_busy {s : State} (hr : s.rst = false) (hb : s.busy = true) :
    hostMove s waitOp = .next { s with host := waitOp :: s.host, reads := s.waitRead :: s.reads } := by
  simp only [waitOp, hostMove, busRead_status hr]
  rw [if_neg (statusWord_and_one_of_busy hb)]
  rfl

theorem step_waitOp_of_busy {s : State} {rest : List HostOp} (hr : s.rst = false) (hb : s.busy = true)
    (hw : s.wait ≠ 0) (hh : s.host = waitOp :: rest) :
    step s = .next { s with wait := s.wait - 1, reads := s.waitRead :: s.reads } := by
  have hmove := hostMove_waitOp_of_busy (s := { s with host := rest, wait := s.wait - 1 }) hr hb
  rw [step_of_host_cons (engineTurn_of_wait hw hh) hh, hmove, hh]
  rfl

/-- A wait for IRQ stays the host's next move until it finds DONE AND IE at 1 (R256, R287). -/
theorem step_waitIrq {s : State} {rest : List HostOp} (h : s.engineTurn = false) (hh : s.host = .waitIrq :: rest) :
    step s = .next { s with wait := s.wait - 1, host := if s.done && s.ie then rest else .waitIrq :: rest } := by
  rw [step_of_host_cons h hh]
  cases hi : s.done && s.ie <;> simp [hostMove, State.irq, hi]

/-- DONE is 0 while BUSY (R23), so a wait for IRQ that finds the engine BUSY goes on. -/
theorem step_waitIrq_of_busy {s : State} {rest : List HostOp} (hb : s.busy = true) (hst : s.statusInv = true)
    (hw : s.wait ≠ 0) (hh : s.host = .waitIrq :: rest) : step s = .next { s with wait := s.wait - 1 } := by
  rw [step_waitIrq (engineTurn_of_wait hw hh) hh, State.done_of_busy hst hb, hh]
  rfl

/-! ### Waiting until the engine's turn (70_reset_and_hazards R290) -/

/-- Steps that each count `wait` down by one, and change nothing else but the record of reads, bring `wait` to 0. -/
theorem run_wait {s : State} {f : List HostRead → List HostRead}
    (h : ∀ n reads, step { s with wait := n + 1, reads := reads } = .next { s with wait := n, reads := f reads })
    (n : Nat) (reads : List HostRead) :
    core.run n { s with wait := n, reads := reads } = .next { s with wait := 0, reads := f^[n] reads } := by
  induction n generalizing reads with
  | zero => rfl
  | succ n ih =>
    calc core.run (n + 1) { s with wait := n + 1, reads := reads }
        = core.run n { s with wait := n, reads := f reads } := by
          simp only [Host.Core.run, show core.step = step from rfl, h]
      _ = _ := ih (f reads)

theorem engineTurn_of_wait_zero {s : State} (hr : s.rst = false) (hb : s.busy = true) (reads : List HostRead) :
    ({ s with wait := 0, reads := reads } : State).engineTurn = true :=
  (State.engineTurn_eq_true_iff _).2 ⟨hr, hb, .inl rfl⟩

/-- Under WAIT each move before the engine's turn adds one read of STATUS, always of the same word. -/
theorem run_waitOp {s : State} {rest : List HostOp} (hr : s.rst = false) (hb : s.busy = true)
    (hh : s.host = waitOp :: rest) :
    core.run s.wait s = .next { s with wait := 0, reads := (s.waitRead :: ·)^[s.wait] s.reads } :=
  run_wait (fun n reads =>
    step_waitOp_of_busy (s := { s with wait := n + 1, reads := reads }) hr hb n.succ_ne_zero hh) s.wait s.reads

/-- A wait for IRQ leaves no trace but the count. -/
theorem run_waitIrq {s : State} {rest : List HostOp} (hb : s.busy = true) (hst : s.statusInv = true)
    (hh : s.host = .waitIrq :: rest) : core.run s.wait s = .next { s with wait := 0 } := by
  have hrun := run_wait (s := s) (f := id) (fun n reads =>
    step_waitIrq_of_busy (s := { s with wait := n + 1, reads := reads }) hb hst n.succ_ne_zero hh) s.wait s.reads
  rwa [Function.iterate_id] at hrun

end Sys2Proof.Machine
end

section
/-! PROOFS. The statements of 70_reset_and_hazards. -/

namespace Sys2Proof.Machine

/-- Settles O55: asserting RST is a reset, releasing it another, and under RST an access looks at neither the register
nor the entry it names. -/
theorem resetInputDiscardsCommand : Obligations.ResetInputDiscardsCommand := by
  refine fun s => ⟨rfl, rfl, engineTurn_eq_false (.inl rfl), fun hr a v hl => ?_⟩
  obtain ⟨tg, hl⟩ := Option.isSome_iff_exists.1 hl
  rw [busWrite_of_locate hl, busRead_of_locate hl, writeTarget_of_rst hr, readTarget_of_rst hr, State.draw_allOnes]
  exact ⟨rfl, rfl⟩

/-- Settles O59: every waiting move counts `wait` down by one and stays the host's next move, until it is the engine's
turn. -/
theorem latchedCommandRunsWithinBound : Obligations.LatchedCommandRunsWithinBound := by
  refine ⟨fun s rest hr hb hh => ?_, fun s rest hr hb hst hh => ?_, fun s rest => step_waitIrq⟩
  · refine ⟨_, run_waitOp hr hb hh, engineTurn_of_wait_zero hr hb _, rfl, ?_⟩
    have hlen : Function.Semiconj List.length (s.waitRead :: ·) Nat.succ := fun l => List.length_cons
    exact (hlen.iterate_right s.wait s.reads).trans (Nat.succ_iterate _ _)
  · exact ⟨_, run_waitIrq hb hst hh, engineTurn_of_wait_zero hr hb s.reads, rfl⟩

/-- Settles O54: ID is the one register that is not 0 at reset, and no address of the empty memory was written. -/
theorem resetState : Obligations.ResetState := by
  refine ⟨rfl, rfl, rfl, rfl, fun r => ?_, fun b i => ?_⟩
  · cases r <;> rfl
  · rfl

/-- Settles O57: the default parameters are well-formed, and each other clause of the invariant speaks of tables,
memory and lengths that are empty at reset. -/
theorem resetMeetsInvariant : Obligations.ResetMeetsInvariant :=
  ⟨by decide, rfl, rfl, rfl, rfl⟩

end Sys2Proof.Machine
end
